-- ==== Sys2Proof/Config.lean ====
section
/-! DEFINITION. What this hardware fixes (00_scope.md R7, R8). The spec leaves no value open
(92_eei_decisions.md: no row is OPEN), so there is no free value here. -/

namespace Sys2Proof.Config

/-- R8, `XLEN`: the width of every host-visible register. -/
abbrev xlen : Nat := 32

/-- R8, `MAX_SRC_LEN` = 2^32 - 1: the largest length of a byte source, so that it fits BUF_LEN or STR_LEN. -/
abbrev maxSrcLen : Nat := 2 ^ xlen - 1

/-- R8, `BPOS_W`: the width of a command word's bit-position field. -/
abbrev bposW : Nat := 5

/-- R8, `BLEN_W`: the width of a command word's bit-length field. -/
abbrev blenW : Nat := 5

/-- R16: the highest offset of a host register access. -/
abbrev lastOffset : Nat := 0xFC

end Sys2Proof.Config
end

