-- ==== Sys2Proof/Word.lean ====
section
/-! DEFINITION. The word and byte types (00_scope.md R8, R10: every value is an unsigned integer of a stated width). -/

namespace Sys2Proof

/-- A register's contents, a command word, an offset or a cursor: 32 bits (R8). -/
abbrev Word := BitVec 32

/-- One byte of a source (R25). -/
abbrev Byte := BitVec 8

/-- A 16-bit big-endian value (R39). -/
abbrev Half := BitVec 16

end Sys2Proof
end

