-- ==== Sys2Proof/Syntax.lean ====
section
/-! DEFINITION. The commands of BFX-1: one constructor per row of spec/opcode_table.json (30_encoding.md R53). -/

namespace Sys2Proof

/-- A command. `p` is BPOS, the MSB-0 bit position of the window, and `l` is BLEN, its bit length
(R9, R50, R51). The offset, byte value or cursor is an implicit operand (R52). -/
inductive Instr where
  /-- BRDBITS p, l (R72). -/
  | brdbits (p l : Nat)
  /-- XBITS p, l (R68). -/
  | xbits (p l : Nat)
  /-- BRDU16BITS p, l (R73). -/
  | brdu16bits (p l : Nat)
  /-- BRDU16 (R74). -/
  | brdu16
  /-- BRDIPV4 (R75). -/
  | brdipv4
  /-- SPEEK (R79). -/
  | speek
  /-- SPEEKBITS p, l (R80). -/
  | speekbits (p l : Nat)
  /-- SCONSUMEBITS p, l (R81). -/
  | sconsumebits (p l : Nat)
  /-- SRDU16 (R82). -/
  | srdu16
  /-- SRDU16BITS p, l (R83). -/
  | srdu16bits (p l : Nat)
  /-- SRDIPV4 (R84). -/
  | srdipv4
  deriving DecidableEq, Repr

end Sys2Proof
end

