-- ==== Sys2Proof/WellFormed.lean ====
section
/-! DEFINITION. Which terms of Instr a command word can spell (30_encoding.md R50, R51). -/

namespace Sys2Proof

/-- R51: BPOS is an unsigned field of 5 bits. -/
def bposFits (p : Nat) : Bool := p < 2 ^ Config.bposW

/-- R51: BLEN is an unsigned field of 5 bits. -/
def blenFits (l : Nat) : Bool := l < 2 ^ Config.blenW

/-- The command's fields fit its word. A window that exceeds 8 or 16 bits is well-formed: it decodes, and the command
raises RangeError (R59, R63). -/
def Instr.wf : Instr → Bool
  | .brdbits p l => bposFits p && blenFits l
  | .xbits p l => bposFits p && blenFits l
  | .brdu16bits p l => bposFits p && blenFits l
  | .brdu16 => true
  | .brdipv4 => true
  | .speek => true
  | .speekbits p l => bposFits p && blenFits l
  | .sconsumebits p l => bposFits p && blenFits l
  | .srdu16 => true
  | .srdu16bits p l => bposFits p && blenFits l
  | .srdipv4 => true

end Sys2Proof
end

