-- ==== Sys2Proof/Decode.lean ====
section
/-! DEFINITION. The decoder, total over all 2^32 words (30_encoding.md R54), and the encoder (R50, R53). -/

namespace Sys2Proof

/-- Why a word spells no command (60_exceptions.md R93). All four raise IllegalCommand; the name is the
model's own and nothing of the machine depends on it (log 15). -/
inductive IllegalWord where
  /-- R55: OP is 0x0 or 0xB .. 0xF. -/
  | reservedOp
  /-- R56: ADV = 1 and OP is not 0x7. -/
  | advOffReadBits
  /-- R57: a window field is nonzero on a windowless command. -/
  | windowOnWindowless
  /-- R58: a bit of RSVD is set. -/
  | reservedBits
  deriving DecidableEq, Repr

/-! ### Fields of a command word (R50) -/

/-- OP, bits 31:28. -/
def opField (w : Word) : BitVec 4 := w.extractLsb' 28 4

/-- ADV, bit 27. -/
def advField (w : Word) : Bool := w.getLsbD 27

/-- BPOS, bits 26:22, zero-extended (R51). -/
def bposField (w : Word) : Nat := (w.extractLsb' 22 5).toNat

/-- BLEN, bits 21:17, zero-extended (R51). -/
def blenField (w : Word) : Nat := (w.extractLsb' 17 5).toNat

/-- RSVD, bits 16:0. -/
def rsvdField (w : Word) : BitVec 17 := w.extractLsb' 0 17

/-! ### Decoding (R54) -/

/-- A row of the table of R54: a word `w` is this row's command exactly when `w & mask = pattern`. `build` makes the
command from the word's BPOS and BLEN. -/
structure DecodeRow where
  pattern : Word
  mask : Word
  build : Nat → Nat → Instr

/-- R54's test. -/
def DecodeRow.hits (r : DecodeRow) (w : Word) : Bool := w &&& r.mask == r.pattern

/-- The table of R54, in its order. -/
def decodeRows : List DecodeRow :=
  [ ⟨0x10000000, 0xF801FFFF, .brdbits⟩,
    ⟨0x20000000, 0xF801FFFF, .xbits⟩,
    ⟨0x30000000, 0xF801FFFF, .brdu16bits⟩,
    ⟨0x40000000, 0xFFFFFFFF, fun _ _ => .brdu16⟩,
    ⟨0x50000000, 0xFFFFFFFF, fun _ _ => .brdipv4⟩,
    ⟨0x60000000, 0xFFFFFFFF, fun _ _ => .speek⟩,
    ⟨0x70000000, 0xF801FFFF, .speekbits⟩,
    ⟨0x78000000, 0xF801FFFF, .sconsumebits⟩,
    ⟨0x80000000, 0xFFFFFFFF, fun _ _ => .srdu16⟩,
    ⟨0x90000000, 0xF801FFFF, .srdu16bits⟩,
    ⟨0xA0000000, 0xFFFFFFFF, fun _ _ => .srdipv4⟩ ]

/-- R55: the reserved values of OP. -/
def opReserved (w : Word) : Bool := opField w == 0 || 0xB ≤ (opField w).toNat

/-- R57: the OP values of the commands that take no window. -/
def opWindowless (w : Word) : Bool := [4, 5, 6, 8, 0xA].contains (opField w).toNat

/-- The name of an illegal word: the first of R55, R56, R57, R58 that it breaks (log 15). -/
def illegalReason (w : Word) : IllegalWord :=
  if opReserved w then .reservedOp
  else if advField w && opField w != 7 then .advOffReadBits
  else if opWindowless w && (bposField w != 0 || blenField w != 0) then .windowOnWindowless
  else .reservedBits

/-- R54: the row that matches gives the command, and a word that matches no row is illegal. -/
def decode (w : Word) : Except IllegalWord Instr :=
  match decodeRows.find? (·.hits w) with
  | some r => .ok (r.build (bposField w) (blenField w))
  | none => .error (illegalReason w)

/-! ### Encoding (R50, R53) -/

/-- R50: `word = (OP << 28) | (ADV << 27) | (BPOS << 22) | (BLEN << 17)`, RSVD = 0. -/
def commandWord (op adv p l : Nat) : Word :=
  (BitVec.ofNat 32 op <<< 28) ||| (BitVec.ofNat 32 adv <<< 27) ||| (BitVec.ofNat 32 p <<< 22) |||
    (BitVec.ofNat 32 l <<< 17)

/-- The word of a well-formed command, with OP and ADV of R53. -/
def encode : Instr → Word
  | .brdbits p l => commandWord 0x1 0 p l
  | .xbits p l => commandWord 0x2 0 p l
  | .brdu16bits p l => commandWord 0x3 0 p l
  | .brdu16 => commandWord 0x4 0 0 0
  | .brdipv4 => commandWord 0x5 0 0 0
  | .speek => commandWord 0x6 0 0 0
  | .speekbits p l => commandWord 0x7 0 p l
  | .sconsumebits p l => commandWord 0x7 1 p l
  | .srdu16 => commandWord 0x8 0 0 0
  | .srdu16bits p l => commandWord 0x9 0 p l
  | .srdipv4 => commandWord 0xA 0 0 0

/-! ### The opcode table's numbering -/

/-- The command the decoder reads from a word of spec/opcode_table.json's numbering. A command is one 32-bit word given
to the unit whole (R49), so no byte order stands between the table's bits and the word's (log 10). -/
def decodeTableWord (nbits w : Nat) : Option Instr :=
  if nbits ≤ 32 ∧ w < 2 ^ nbits then
    match decode (BitVec.ofNat 32 w) with
    | .ok i => some i
    | .error _ => none
  else none

end Sys2Proof
end

