-- ==== Sys2Proof/Machine/State.lean ====
section
/-! DEFINITION. What the machine holds (10_state.md R33), why it can stop, and the machine right after reset. -/

namespace Sys2Proof.Machine

/-- A byte source (10_state.md R25): its length, and its bytes at addresses 0 .. len-1. `cells` lists, by strictly
rising address, the bytes that are not zero; an unlisted address below `len` holds a zero byte, and an address from `len`
on holds no byte at all (log 5). The length fits BUF_LEN and STR_LEN by its type (R8). -/
structure Memory where
  len : Word
  cells : List Host.Cell
  deriving DecidableEq, Repr

/-- No source attached: length 0, no contents (R25, R32). -/
def Memory.empty : Memory := ⟨0, []⟩

/-- What the host can do to the unit (70_reset_and_hazards.md R113: "attaches, register writes, register reads and
resets"). An access carries its width in bits and its offset, since R16 speaks of accesses of any width. -/
inductive HostAction where
  /-- A register write of the given width in bits at the given offset (R16). -/
  | write (width offset : Nat) (value : Word)
  /-- A register read of the given width in bits at the given offset (R16). -/
  | read (width offset : Nat)
  /-- Attach a buffer source with these bytes, or change the attached one's bytes or length to them (R25, R110). -/
  | attachBuf (bytes : List Byte)
  /-- Attach a stream source with these bytes, or change the attached one's bytes or length to them (R25, R110). -/
  | attachStr (bytes : List Byte)
  /-- The platform asserts reset (R102). -/
  | reset
  deriving DecidableEq, Repr

/-- An action and the number of the host that makes it (60_exceptions.md R99). -/
structure HostEvent where
  host : Nat
  action : HostAction
  deriving DecidableEq, Repr

/-- A value a host read from the register port (70_reset_and_hazards.md R113). -/
structure ReadRecord where
  host : Nat
  offset : Nat
  value : Word
  deriving DecidableEq, Repr

/-- The state. The first seven fields are the whole record of 10_state.md R33; BUF_LEN and STR_LEN read the lengths of
`buf` and `str` (R26, R27). The last two are the model's own: the environment's side of a run (logs 1 and 3). -/
structure State where
  /-- CMD, the last command word written (R17). -/
  cmd : Word
  /-- OPND, the buffer offset, or the byte value for XBITS (R18). -/
  opnd : Word
  /-- RESULT, the value of the last successful command (R19). -/
  result : Word
  /-- STATUS, the outcome of the last command (R21). -/
  status : Word
  /-- POS, the stream cursor (R20). -/
  pos : Word
  /-- The buffer source (R25). -/
  buf : Memory
  /-- The stream source (R25). -/
  str : Memory
  /-- The host actions still to be performed, the next one first. -/
  pending : List HostEvent
  /-- The values the hosts have read, the oldest first. -/
  reads : List ReadRecord
  deriving DecidableEq, Repr

/-- Nothing of the spec stops the unit: an error is a STATUS code after which "the unit is ready for the next command"
(60_exceptions.md R90, R95), and every word has a defined outcome (30_encoding.md R54). So no constructor (log 13). -/
inductive Fault where
  deriving DecidableEq, Repr

/-- Why the model gives an action no meaning. -/
inductive Refusal where
  /-- Raised by an arm of `exec` that has no meaning yet; no arm is such an arm. Safe: the model stops. -/
  | notModelled (mnemonic : String)
  /-- Raised by a host register access that is not a 32-bit access at a multiple of 4 up to 0xFC: "Any other access is
  outside the interface. A model refuses it" (10_state.md R16, 93_implementation_defined.md I9; log 9). Safe: the model
  stops. -/
  | outsideInterface (width offset : Nat)
  /-- Raised by attaching a source of more than 2^32 - 1 bytes, which R8 and R25 exclude (92_eei_decisions.md D4; log 6).
  Safe: the model stops. -/
  | sourceTooLong (length : Nat)
  deriving DecidableEq, Repr

/-- The machine after the reset of power-on: every register 0 (10_state.md R31), no source attached (R32). No host action
is pending and none has read anything (log 11). -/
def State.reset : State :=
  { cmd := 0, opnd := 0, result := 0, status := 0, pos := 0, buf := Memory.empty, str := Memory.empty,
    pending := [], reads := [] }

end Sys2Proof.Machine
end

