-- ==== Sys2Proof/Machine/Flags.lean ====
section
/-! DEFINITION. STATUS and its fields: every flag the unit has (10_state.md R21-R24, R28). -/

namespace Sys2Proof.Machine

/-- The errors of 60_exceptions.md R87. -/
inductive ErrorKind where
  /-- A window that exceeds its width or has length 0, or a buffer read past the end (R91). -/
  | rangeError
  /-- A stream read with fewer bytes remaining than requested (R92). -/
  | endOfSource
  /-- A CMD word that spells no command (R93). -/
  | illegalCommand
  deriving DecidableEq, Repr

/-- The kinds of a result (10_state.md R24). -/
inductive ResultKind where
  /-- An 8-bit extracted value. -/
  | byte
  /-- A 16-bit value. -/
  | u16
  /-- Four octets. -/
  | ipv4
  deriving DecidableEq, Repr

/-- R88: the code written to STATUS.ERR. -/
def ErrorKind.code : ErrorKind → Word
  | .rangeError => 1
  | .endOfSource => 2
  | .illegalCommand => 3

/-- R24, R89: the code written to STATUS.RKIND. -/
def ResultKind.code : ResultKind → Word
  | .byte => 1
  | .u16 => 2
  | .ipv4 => 3

/-- R89: `STATUS <- (kind_code << 8) | (1 << 4)`. -/
def successStatus (k : ResultKind) : Word := (k.code <<< 8) ||| (1 <<< 4)

/-- R90: `STATUS <- code(E)`. -/
def errorStatus (e : ErrorKind) : Word := e.code

/-- STATUS.ERR, bits 3:0 (R21, R22). -/
def statusErr (w : Word) : BitVec 4 := w.extractLsb' 0 4

/-- STATUS.VALID, bit 4 (R21, R23). -/
def statusValid (w : Word) : Bool := w.getLsbD 4

/-- STATUS.RKIND, bits 9:8 (R21, R24). -/
def statusRkind (w : Word) : BitVec 2 := w.extractLsb' 8 2

/-- The bits of STATUS that are not hardwired to 0: ERR, VALID and RKIND (R21). -/
def statusImplemented : Word := 0x31F

/-- STATUS as it is read: the reserved bits read 0 (R21; log 12). -/
def State.statusRead (s : State) : Word := s.status &&& statusImplemented

/-- The values STATUS ever holds (R21). -/
def statusValues : List Word := [0x000, 0x110, 0x210, 0x310, 0x001, 0x002, 0x003]

end Sys2Proof.Machine
end

