-- ==== Sys2Proof/Machine/Operands.lean ====
section
/-! DEFINITION. The operand forms: the three implicit operands (30_encoding.md R52), the window check and the shared
bit-field algorithm (40_bitfield_core.md R63, R64). -/

namespace Sys2Proof.Machine

/-- The buffer offset of a buffer command: all 32 bits of OPND, as a natural number, since bounds sums are exact
(R18, R38, R52). -/
def State.bufferOffset (s : State) : Nat := s.opnd.toNat

/-- The byte value of XBITS: OPND[7:0], with OPND[31:8] ignored (R18, R52, R68). -/
def State.byteOperand (s : State) : Byte := s.opnd.extractLsb' 0 8

/-- The stream cursor as a natural number (R20, R38, R52). -/
def State.cursor (s : State) : Nat := s.pos.toNat

/-- R63: `WindowCheck(W, p, l)` raises RangeError when `l = 0` or `p + l > W`. -/
def windowCheck (W p l : Nat) : Except ErrorKind Unit :=
  if l = 0 ∨ W < p + l then .error .rangeError else .ok ()

/-- R64: `ExtractBits(W, v, p, l)` masks first with `(2^W - 1) >> p`, then shifts right by `W - p - l`. It is applied only
after `windowCheck W p l` has passed, so the shift is never negative. One function serves both widths (R69). -/
def extractBits (W : Nat) (v : BitVec W) (p l : Nat) : BitVec W :=
  ((BitVec.allOnes W >>> p) &&& v) >>> (W - p - l)

end Sys2Proof.Machine
end

