-- ==== Sys2Proof/Machine/Ops.lean ====
section
/-! DEFINITION. The named operations over sources and registers: the two read primitives and byte order (20_memory.md),
completion and raising an error (60_exceptions.md R89, R90), the cursor's advance (42_stream_accessor.md R77), the register
map (10_state.md R15) and reset (R31). -/

namespace Sys2Proof.Machine

/-! ### Sources -/

/-- What an address below the length reads as when `cells` does not list it (log 5). -/
def Memory.unlisted : Byte := 0

/-- The byte `cells` gives an address, `Memory.unlisted` where it lists none. -/
def cellAt : List Host.Cell → Nat → Byte
  | [], _ => Memory.unlisted
  | (x, b) :: rest, a => if x = a then b else cellAt rest a

/-- The byte at an address below the length. -/
def Memory.byteAt (m : Memory) (a : Nat) : Byte := cellAt m.cells a

/-- The model's read of one byte: none where the source has no byte (R34, R45). -/
def Memory.readByte (m : Memory) (a : Nat) : Option Byte :=
  if a < m.len.toNat then some (m.byteAt a) else none

/-- The cells of a list of bytes that starts at address `a`. -/
def cellsFrom (a : Nat) : List Byte → List Host.Cell
  | [] => []
  | b :: bs => if b = Memory.unlisted then cellsFrom (a + 1) bs else (a, b) :: cellsFrom (a + 1) bs

/-- The source that holds these bytes at addresses 0, 1, ... (R25). Its length is theirs when they are at most
`Config.maxSrcLen`, the only lists the host attaches (R8, R25). -/
def Memory.ofBytes (bytes : List Byte) : Memory := ⟨BitVec.ofNat 32 bytes.length, cellsFrom 0 bytes⟩

/-- Cells in canonical form: addresses from `lo` on, strictly rising and below `hi`, and no entry equal to what an
unlisted address reads as. -/
def cellsCanonical (lo hi : Nat) : List Host.Cell → Bool
  | [] => true
  | (a, b) :: rest => decide (lo ≤ a) && decide (a < hi) && b != Memory.unlisted && cellsCanonical (a + 1) hi rest

/-- The canonical form of a source, in which equal sources are equal data. -/
def Memory.wf (m : Memory) : Bool := cellsCanonical 0 m.len.toNat m.cells

/-- R36: `BufRead(a, n)`. The sum is exact (R38). -/
def State.bufRead (s : State) (a n : Nat) : Except ErrorKind (Fin n → Byte) :=
  if s.buf.len.toNat < a + n then .error .rangeError else .ok fun k => s.buf.byteAt (a + k)

/-- R37: `StrRead(a, n)`. The sum is exact (R38). It never moves POS. -/
def State.strRead (s : State) (a n : Nat) : Except ErrorKind (Fin n → Byte) :=
  if s.str.len.toNat < a + n then .error .endOfSource else .ok fun k => s.str.byteAt (a + k)

/-- R39: `BE16(b0, b1)` is the concatenation `b0, b1`, so `b0 * 256 + b1`. -/
def be16 (b0 b1 : Byte) : Half := b0 ++ b1

/-- R41: four octets verbatim, the first in bits 31:24. -/
def ipv4Word (o0 o1 o2 o3 : Byte) : Word := o0 ++ o1 ++ o2 ++ o3

/-! ### Ending a command -/

/-- R89: `Complete(kind, v)`, with `v` already zero-extended to 32 bits. -/
def State.complete (s : State) (k : ResultKind) (v : Word) : State :=
  { s with result := v, status := successStatus k }

/-- R90, R95: `raise E`, the one way an error is taken. It writes STATUS and nothing else: no state is saved, no control is
transferred, and R96 gives no return from it. -/
def State.raise (s : State) (e : ErrorKind) : State := { s with status := errorStatus e }

/-- R77: `Advance(n)`, `POS <- POS + n`. -/
def State.advance (s : State) (n : Nat) : State := { s with pos := s.pos + BitVec.ofNat 32 n }

/-- The end of a command that leaves POS alone: the outcome of its checks and reads becomes `Complete` or `raise`
(R11, R71, R78). -/
def State.deliver (s : State) (k : ResultKind) (r : Except ErrorKind Word) : Host.Outcome State Fault Refusal :=
  match r with
  | .ok v => .next (s.complete k v)
  | .error e => .next (s.raise e)

/-- The end of a consuming command: `Advance(n)` only after every check has passed, then `Complete` (R77, R86). -/
def State.deliverConsuming (s : State) (n : Nat) (k : ResultKind) (r : Except ErrorKind Word) :
    Host.Outcome State Fault Refusal :=
  match r with
  | .ok v => .next ((s.advance n).complete k v)
  | .error e => .next (s.raise e)

/-! ### Registers -/

/-- The registers of R15; `reserved` stands for every offset 0x1C-0xFC. -/
inductive Reg where
  | cmd
  | opnd
  | result
  | status
  | pos
  | bufLen
  | strLen
  | reserved
  deriving DecidableEq, Repr

/-- The register at an offset of the register space (R15). -/
def regAt (offset : Nat) : Reg :=
  match offset with
  | 0x00 => .cmd
  | 0x04 => .opnd
  | 0x08 => .result
  | 0x0C => .status
  | 0x10 => .pos
  | 0x14 => .bufLen
  | 0x18 => .strLen
  | _ => .reserved

/-- What a host read of a register returns (R15-R21, R26, R27). -/
def State.readReg (s : State) : Reg → Word
  | .cmd => s.cmd
  | .opnd => s.opnd
  | .result => s.result
  | .status => s.statusRead
  | .pos => s.pos
  | .bufLen => s.buf.len
  | .strLen => s.str.len
  | .reserved => 0

/-- R31, R102: reset of the unit. The sources stay as they are (R32). -/
def State.resetUnit (s : State) : State :=
  { s with cmd := 0, opnd := 0, result := 0, status := 0, pos := 0 }

end Sys2Proof.Machine
end

