-- ==== Sys2Proof/Machine/BitField.lean ====
section
/-! DEFINITION. XBITS (40_bitfield_core.md). -/

namespace Sys2Proof.Machine

/-- R68: XBITS p, l. It reads no source. -/
def execXbits (p l : Nat) (s : State) : Host.Outcome State Fault Refusal :=
  s.deliver .byte do
    windowCheck 8 p l
    return (extractBits 8 s.byteOperand p l).setWidth 32

end Sys2Proof.Machine
end

