-- ==== Sys2Proof/Machine/Buffer.lean ====
section
/-! DEFINITION. The buffer accessor's commands (41_buffer_accessor.md). -/

namespace Sys2Proof.Machine

/-- R72: BRDBITS p, l. -/
def execBrdbits (p l : Nat) (s : State) : Host.Outcome State Fault Refusal :=
  s.deliver .byte do
    windowCheck 8 p l
    let b ← s.bufRead s.bufferOffset 1
    return (extractBits 8 (b 0) p l).setWidth 32

/-- R73: BRDU16BITS p, l. The window is taken from the numeric big-endian value (R40). -/
def execBrdu16bits (p l : Nat) (s : State) : Host.Outcome State Fault Refusal :=
  s.deliver .u16 do
    windowCheck 16 p l
    let b ← s.bufRead s.bufferOffset 2
    return (extractBits 16 (be16 (b 0) (b 1)) p l).setWidth 32

/-- R74: BRDU16. -/
def execBrdu16 (s : State) : Host.Outcome State Fault Refusal :=
  s.deliver .u16 do
    let b ← s.bufRead s.bufferOffset 2
    return (be16 (b 0) (b 1)).setWidth 32

/-- R75: BRDIPV4. -/
def execBrdipv4 (s : State) : Host.Outcome State Fault Refusal :=
  s.deliver .ipv4 do
    let b ← s.bufRead s.bufferOffset 4
    return ipv4Word (b 0) (b 1) (b 2) (b 3)

end Sys2Proof.Machine
end

