-- ==== Sys2Proof/Machine/Stream.lean ====
section
/-! DEFINITION. The stream accessor's commands (42_stream_accessor.md). The window check comes before the source bounds
(60_exceptions.md R94), and POS moves only on success (R86). -/

namespace Sys2Proof.Machine

/-- R79: SPEEK. -/
def execSpeek (s : State) : Host.Outcome State Fault Refusal :=
  s.deliver .byte do
    let b ← s.strRead s.cursor 1
    return (b 0).setWidth 32

/-- R80: SPEEKBITS p, l. -/
def execSpeekbits (p l : Nat) (s : State) : Host.Outcome State Fault Refusal :=
  s.deliver .byte do
    windowCheck 8 p l
    let b ← s.strRead s.cursor 1
    return (extractBits 8 (b 0) p l).setWidth 32

/-- R81: SCONSUMEBITS p, l. -/
def execSconsumebits (p l : Nat) (s : State) : Host.Outcome State Fault Refusal :=
  s.deliverConsuming 1 .byte do
    windowCheck 8 p l
    let b ← s.strRead s.cursor 1
    return (extractBits 8 (b 0) p l).setWidth 32

/-- R82: SRDU16. -/
def execSrdu16 (s : State) : Host.Outcome State Fault Refusal :=
  s.deliverConsuming 2 .u16 do
    let b ← s.strRead s.cursor 2
    return (be16 (b 0) (b 1)).setWidth 32

/-- R83: SRDU16BITS p, l. The window is taken from the numeric big-endian value (R40). -/
def execSrdu16bits (p l : Nat) (s : State) : Host.Outcome State Fault Refusal :=
  s.deliverConsuming 2 .u16 do
    windowCheck 16 p l
    let b ← s.strRead s.cursor 2
    return (extractBits 16 (be16 (b 0) (b 1)) p l).setWidth 32

/-- R84: SRDIPV4. -/
def execSrdipv4 (s : State) : Host.Outcome State Fault Refusal :=
  s.deliverConsuming 4 .ipv4 do
    let b ← s.strRead s.cursor 4
    return ipv4Word (b 0) (b 1) (b 2) (b 3)

end Sys2Proof.Machine
end

