-- ==== Sys2Proof/Machine/Dispatch.lean ====
section
/-! DEFINITION. One arm per command: the pseudocode of each, run after the host's write has put the word in CMD
(10_state.md R17; log 14). -/

namespace Sys2Proof.Machine

def exec (i : Instr) (s : State) : Host.Outcome State Fault Refusal :=
  match i with
  | .brdbits p l => Sys2Proof.Machine.execBrdbits p l s
  | .xbits p l => Sys2Proof.Machine.execXbits p l s
  | .brdu16bits p l => Sys2Proof.Machine.execBrdu16bits p l s
  | .brdu16 => Sys2Proof.Machine.execBrdu16 s
  | .brdipv4 => Sys2Proof.Machine.execBrdipv4 s
  | .speek => Sys2Proof.Machine.execSpeek s
  | .speekbits p l => Sys2Proof.Machine.execSpeekbits p l s
  | .sconsumebits p l => Sys2Proof.Machine.execSconsumebits p l s
  | .srdu16 => Sys2Proof.Machine.execSrdu16 s
  | .srdu16bits p l => Sys2Proof.Machine.execSrdu16bits p l s
  | .srdipv4 => Sys2Proof.Machine.execSrdipv4 s

end Sys2Proof.Machine
end

