-- ==== Sys2Proof/Machine/Port.lean ====
section
/-! DEFINITION. The host register port (10_state.md R15-R17) and what each host action does. -/

namespace Sys2Proof.Machine

/-- R17: a host write of `w` to CMD does `CMD <- w`, then executes `w` once: it decodes `w` and runs the command, or raises
IllegalCommand (R93). -/
def executeCommand (w : Word) (s : State) : Host.Outcome State Fault Refusal :=
  match decode w with
  | .ok i => exec i { s with cmd := w }
  | .error _ => .next (State.raise { s with cmd := w } .illegalCommand)

/-- R16: an access of the interface is a 32-bit access at a multiple of 4 and at most 0xFC. -/
def insideInterface (width offset : Nat) : Bool :=
  width == 32 && offset % 4 == 0 && decide (offset ≤ Config.lastOffset)

/-- A host write inside the interface. Only CMD executes; a write to a read-only register or a reserved offset is ignored
(R16). -/
def hostWrite (offset : Nat) (v : Word) (s : State) : Host.Outcome State Fault Refusal :=
  match regAt offset with
  | .cmd => executeCommand v s
  | .opnd => .next { s with opnd := v }
  | .pos => .next { s with pos := v }
  | .result => .next s
  | .status => .next s
  | .bufLen => .next s
  | .strLen => .next s
  | .reserved => .next s

/-- A host read inside the interface: no side effect on the unit (R16), and the host has the value (log 3). -/
def hostRead (host offset : Nat) (s : State) : State :=
  { s with reads := s.reads ++ [⟨host, offset, s.readReg (regAt offset)⟩] }

/-- R25, R110: attaching a buffer source, or changing its bytes or length. -/
def attachBuf (bytes : List Byte) (s : State) : Host.Outcome State Fault Refusal :=
  if bytes.length ≤ Config.maxSrcLen then .next { s with buf := Memory.ofBytes bytes }
  else .refused (.sourceTooLong bytes.length)

/-- R25, R110: attaching a stream source, or changing its bytes or length. It does not move POS. -/
def attachStr (bytes : List Byte) (s : State) : Host.Outcome State Fault Refusal :=
  if bytes.length ≤ Config.maxSrcLen then .next { s with str := Memory.ofBytes bytes }
  else .refused (.sourceTooLong bytes.length)

/-- One host action, performed whole (R3, R46, R103). -/
def perform (e : HostEvent) (s : State) : Host.Outcome State Fault Refusal :=
  match e.action with
  | .write width offset v =>
    if insideInterface width offset then hostWrite offset v s else .refused (.outsideInterface width offset)
  | .read width offset =>
    if insideInterface width offset then .next (hostRead e.host offset s)
    else .refused (.outsideInterface width offset)
  | .attachBuf bytes => attachBuf bytes s
  | .attachStr bytes => attachStr bytes s
  | .reset => .next s.resetUnit

/-- The host action that gives the unit a command word. -/
def cmdWrite (w : Word) : HostAction := .write 32 0x00 w

end Sys2Proof.Machine
end

