-- ==== Sys2Proof/Machine/Step.lean ====
section
/-! DEFINITION. One step: the next host action, performed whole (00_scope.md R3, 20_memory.md R46). -/

namespace Sys2Proof.Machine

/-- The unit acts only when the host does (10_state.md R14, R17). With nothing pending it waits and nothing changes
(70_reset_and_hazards.md R102, R113; log 2). -/
def step (s : State) : Host.Outcome State Fault Refusal :=
  match s.pending with
  | [] => .next s
  | e :: rest => perform e { s with pending := rest }

/-- The command word of the opcode table's numbering as the very next host action: host 0 writes it to CMD. The unit
fetches nothing (R14, R48), so this is how a program's word reaches it (log 4). -/
def State.withFetchWord (s : State) (nbits w : Nat) : State :=
  { s with pending := ⟨0, cmdWrite (BitVec.ofNat 32 (w % 2 ^ nbits))⟩ :: s.pending }

end Sys2Proof.Machine
end

