-- ==== Sys2Proof/Machine/Assembler.lean ====
section
/-! DEFINITION. The assembler's lines and the host actions they stand for (30_encoding.md R60, R61). A line is given as its
tokens, not as text (log 16). -/

namespace Sys2Proof.Machine

/-- One line (R60) or pseudo-instruction (R61). An operand is the integer the programmer wrote. -/
inductive AsmLine where
  | brdbits (p l : Int)
  | xbits (p l : Int)
  | brdu16bits (p l : Int)
  | brdu16
  | brdipv4
  | speek
  | speekbits (p l : Int)
  | sconsumebits (p l : Int)
  | srdu16
  | srdu16bits (p l : Int)
  | srdipv4
  | brdbyte
  | srdbyte
  | speekbyte
  | brdu16w
  | opnd (v : Word)
  | setpos (v : Word)
  | attachBuf (bytes : List Byte)
  | attachStr (bytes : List Byte)
  | word (w : Word)
  deriving DecidableEq, Repr

/-- R60: operands are integers in 0..31, and the assembler refuses other values (93_implementation_defined.md I2). -/
def asmOperand (x : Int) : Option Nat := if 0 ≤ x ∧ x ≤ 31 then some x.toNat else none

/-- A windowed command from its two operands. -/
def asmWindowed (build : Nat → Nat → Instr) (p l : Int) : Option Instr :=
  match asmOperand p, asmOperand l with
  | some p, some l => some (build p l)
  | _, _ => none

/-- The command a line stands for, where it stands for one and its operands are accepted. -/
def AsmLine.instr : AsmLine → Option Instr
  | .brdbits p l => asmWindowed .brdbits p l
  | .xbits p l => asmWindowed .xbits p l
  | .brdu16bits p l => asmWindowed .brdu16bits p l
  | .brdu16 => some .brdu16
  | .brdipv4 => some .brdipv4
  | .speek => some .speek
  | .speekbits p l => asmWindowed .speekbits p l
  | .sconsumebits p l => asmWindowed .sconsumebits p l
  | .srdu16 => some .srdu16
  | .srdu16bits p l => asmWindowed .srdu16bits p l
  | .srdipv4 => some .srdipv4
  | .brdbyte => some (.brdbits 0 8)
  | .srdbyte => some (.sconsumebits 0 8)
  | .speekbyte => some (.speekbits 0 8)
  | .brdu16w => some (.brdu16bits 0 16)
  | .opnd _ => none
  | .setpos _ => none
  | .attachBuf _ => none
  | .attachStr _ => none
  | .word _ => none

/-- The host action of a line, none where the assembler refuses it. -/
def assemble : AsmLine → Option HostAction
  | .opnd v => some (.write 32 0x04 v)
  | .setpos v => some (.write 32 0x10 v)
  | .attachBuf bytes => some (.attachBuf bytes)
  | .attachStr bytes => some (.attachStr bytes)
  | .word w => some (cmdWrite w)
  | line => line.instr.map fun i => cmdWrite (encode i)

end Sys2Proof.Machine
end

