-- ==== Sys2Proof/Safety.lean ====
section
/-! DEFINITION. The terms claims are stated in: the tables of what each command reads and consumes, the invariant of the
state, host actions that are inside the interface, and the host's duties about the cursor. -/

namespace Sys2Proof.Machine

/-! ### What each command touches (20_memory.md R43) -/

/-- Which source a command reads. -/
inductive SourceUse where
  | noSource
  | buffer
  | stream
  deriving DecidableEq, Repr

/-- R43, column "source". -/
def sourceUse : Instr → SourceUse
  | .brdbits _ _ => .buffer
  | .xbits _ _ => .noSource
  | .brdu16bits _ _ => .buffer
  | .brdu16 => .buffer
  | .brdipv4 => .buffer
  | .speek => .stream
  | .speekbits _ _ => .stream
  | .sconsumebits _ _ => .stream
  | .srdu16 => .stream
  | .srdu16bits _ _ => .stream
  | .srdipv4 => .stream

/-- R43, column "bytes read". -/
def bytesRead : Instr → Nat
  | .brdbits _ _ => 1
  | .xbits _ _ => 0
  | .brdu16bits _ _ => 2
  | .brdu16 => 2
  | .brdipv4 => 4
  | .speek => 1
  | .speekbits _ _ => 1
  | .sconsumebits _ _ => 1
  | .srdu16 => 2
  | .srdu16bits _ _ => 2
  | .srdipv4 => 4

/-- R43, column "POS change on success". -/
def posChange : Instr → Nat
  | .brdbits _ _ => 0
  | .xbits _ _ => 0
  | .brdu16bits _ _ => 0
  | .brdu16 => 0
  | .brdipv4 => 0
  | .speek => 0
  | .speekbits _ _ => 0
  | .sconsumebits _ _ => 1
  | .srdu16 => 2
  | .srdu16bits _ _ => 2
  | .srdipv4 => 4

/-- The result kind of a successful command (10_state.md R24), as its code in STATUS.RKIND. -/
def kindCode : Instr → Nat
  | .brdbits _ _ => 1
  | .xbits _ _ => 1
  | .brdu16bits _ _ => 2
  | .brdu16 => 2
  | .brdipv4 => 3
  | .speek => 1
  | .speekbits _ _ => 1
  | .sconsumebits _ _ => 1
  | .srdu16 => 2
  | .srdu16bits _ _ => 2
  | .srdipv4 => 3

/-- The command takes no window, or its window is legal: `1 <= l` and `p + l <= W` (40_bitfield_core.md R63), with W = 8 in
byte mode and W = 16 in ushort mode (00_scope.md R7). -/
def windowLegal : Instr → Bool
  | .brdbits p l => decide (1 ≤ l) && decide (p + l ≤ 8)
  | .xbits p l => decide (1 ≤ l) && decide (p + l ≤ 8)
  | .brdu16bits p l => decide (1 ≤ l) && decide (p + l ≤ 16)
  | .brdu16 => true
  | .brdipv4 => true
  | .speek => true
  | .speekbits p l => decide (1 ≤ l) && decide (p + l ≤ 8)
  | .sconsumebits p l => decide (1 ≤ l) && decide (p + l ≤ 8)
  | .srdu16 => true
  | .srdu16bits p l => decide (1 ≤ l) && decide (p + l ≤ 16)
  | .srdipv4 => true

/-- The bytes the command reads exist: `OPND + n <= BUF_LEN` or `POS + n <= STR_LEN`, exact sums (20_memory.md R36-R38). -/
def inBounds (i : Instr) (s : State) : Bool :=
  match sourceUse i with
  | .noSource => true
  | .buffer => decide (s.opnd.toNat + bytesRead i ≤ s.buf.len.toNat)
  | .stream => decide (s.pos.toNat + bytesRead i ≤ s.str.len.toNat)

/-! ### The invariant -/

/-- What every state a run can reach has. -/
structure State.Inv (s : State) : Prop where
  /-- STATUS holds one of the values of 10_state.md R21. -/
  status_listed : s.status ∈ statusValues
  /-- A byte result fits 8 bits (R19). -/
  byte_fits : s.status = 0x110 → s.result.toNat < 2 ^ 8
  /-- A 16-bit result fits 16 bits (R19). -/
  u16_fits : s.status = 0x210 → s.result.toNat < 2 ^ 16
  /-- STATUS = 0 means that no command has executed since reset, so CMD and RESULT are still 0 (R23, R31). -/
  quiet : s.status = 0 → s.cmd = 0 ∧ s.result = 0
  /-- The buffer source is in canonical form. -/
  buf_wf : s.buf.wf = true
  /-- The stream source is in canonical form. -/
  str_wf : s.str.wf = true

/-! ### Runs -/

/-- The model gives the action a meaning: an access of the interface (10_state.md R16), or a source of a length the unit can
hold (00_scope.md R8). -/
def HostAction.inside : HostAction → Bool
  | .write width offset _ => insideInterface width offset
  | .read width offset => insideInterface width offset
  | .attachBuf bytes => decide (bytes.length ≤ Config.maxSrcLen)
  | .attachStr bytes => decide (bytes.length ≤ Config.maxSrcLen)
  | .reset => true

/-- Every action still to be performed has a meaning. -/
def State.pendingInside (s : State) : Bool := s.pending.all fun e => e.action.inside

/-- `k` steps. -/
def runSteps (k : Nat) (s : State) : Host.Outcome State Fault Refusal := Host.Core.run Sys2Proof.core k s

/-- The events are one interleaving of the hosts' programs: each host's own actions stand in its own order, and nothing else
is there (60_exceptions.md R99: "some order the model leaves open"). Host `h` runs `programs[h]`. -/
def Interleaves (programs : List (List HostAction)) (events : List HostEvent) : Prop :=
  ∀ h, (events.filter fun e => e.host == h).map HostEvent.action = programs.getD h []

/-- The action changes neither POS nor the stream source: no POS write, no consuming command, no attached stream, no reset
(70_reset_and_hazards.md R109). -/
def HostAction.sparesCursor : HostAction → Bool
  | .write _ offset v =>
    match regAt offset with
    | .cmd =>
      match decode v with
      | .ok i => posChange i == 0
      | .error _ => true
    | .pos => false
    | .opnd => true
    | .result => true
    | .status => true
    | .bufLen => true
    | .strLen => true
    | .reserved => true
  | .read _ _ => true
  | .attachBuf _ => true
  | .attachStr _ => false
  | .reset => false

/-- The offsets a list of actions reads, in order. -/
def readOffsets : List HostAction → List Nat
  | [] => []
  | .read _ offset :: rest => offset :: readOffsets rest
  | .write _ _ _ :: rest => readOffsets rest
  | .attachBuf _ :: rest => readOffsets rest
  | .attachStr _ :: rest => readOffsets rest
  | .reset :: rest => readOffsets rest

end Sys2Proof.Machine
end

