-- ==== Sys2Proof/Certificates/Slice0/Obligations.lean ====
section
/-! DEFINITION. The statements about the BFX unit. Each docstring names the rule of spec/ it formalises. -/

open Sys2Proof Sys2Proof.Machine

/-! ### Encoding (30_encoding.md) -/

/-- R50, R53, R54: decoding the word of any well-formed command gives the command back, at every value of its fields. -/
def Obligations.DecodeOfEncodeIsIdentity : Prop :=
  ∀ i : Instr, i.wf = true → decode (encode i) = .ok i

/-- R50, R54: a legal word has one meaning: it is the encoding of the command it decodes to, and that command is
well-formed. -/
def Obligations.EncodeOfDecodeIsIdentity : Prop :=
  ∀ (w : Word) (i : Instr), decode w = .ok i → i.wf = true ∧ encode i = w

/-- Words of 95_test_vectors.md (sections 2.1, 2.2, 2.4, 2.5, 2.6 and 3), one for each command, decode to the commands
they stand for. -/
def Obligations.VectorWordsDecodeRight : Prop :=
  decode 0x11080000 = .ok (.brdbits 4 4) ∧ decode 0x20C40000 = .ok (.xbits 3 2) ∧
  decode 0x31C40000 = .ok (.brdu16bits 7 2) ∧ decode 0x40000000 = .ok .brdu16 ∧
  decode 0x50000000 = .ok .brdipv4 ∧ decode 0x60000000 = .ok .speek ∧
  decode 0x72420000 = .ok (.speekbits 9 1) ∧ decode 0x7FFE0000 = .ok (.sconsumebits 31 31) ∧
  decode 0x80000000 = .ok .srdu16 ∧ decode 0x90DA0000 = .ok (.srdu16bits 3 13) ∧
  decode 0xA0000000 = .ok .srdipv4

/-- R54: the table's rows are these; no two rows match one word; a word that matches a row runs that row's command; a
word that matches none raises IllegalCommand. -/
def Obligations.DecoderFollowsMatchTable : Prop :=
  (∀ p l : Nat, decodeRows.map (fun r => (r.pattern, r.mask, r.build p l)) =
    [ (0x10000000, 0xF801FFFF, .brdbits p l), (0x20000000, 0xF801FFFF, .xbits p l),
      (0x30000000, 0xF801FFFF, .brdu16bits p l), (0x40000000, 0xFFFFFFFF, .brdu16),
      (0x50000000, 0xFFFFFFFF, .brdipv4), (0x60000000, 0xFFFFFFFF, .speek),
      (0x70000000, 0xF801FFFF, .speekbits p l), (0x78000000, 0xF801FFFF, .sconsumebits p l),
      (0x80000000, 0xFFFFFFFF, .srdu16), (0x90000000, 0xF801FFFF, .srdu16bits p l),
      (0xA0000000, 0xFFFFFFFF, .srdipv4) ]) ∧
  (∀ w : Word, decodeRows.Pairwise fun r r' => ¬ (w &&& r.mask = r.pattern ∧ w &&& r'.mask = r'.pattern)) ∧
  (∀ w : Word, ∀ r ∈ decodeRows, w &&& r.mask = r.pattern → ∀ s : State,
    executeCommand w s =
      exec (r.build (w.extractLsb' 22 5).toNat (w.extractLsb' 17 5).toNat) { s with cmd := w }) ∧
  (∀ w : Word, (∀ r ∈ decodeRows, w &&& r.mask ≠ r.pattern) → ∀ s : State,
    executeCommand w s = .next { s with cmd := w, status := 3 })

/-- R55-R58: each of the four kinds of malformed word raises IllegalCommand, from any state. -/
def Obligations.MalformedWordsRaiseIllegalCommand : Prop :=
  ∀ (w : Word) (s : State),
    (w.extractLsb' 28 4 = 0 ∨ 0xB ≤ (w.extractLsb' 28 4).toNat) ∨
    (w.getLsbD 27 = true ∧ w.extractLsb' 28 4 ≠ 7) ∨
    ((w.extractLsb' 28 4).toNat ∈ [4, 5, 6, 8, 0xA] ∧ (w.extractLsb' 22 5 ≠ 0 ∨ w.extractLsb' 17 5 ≠ 0)) ∨
    w.extractLsb' 0 17 ≠ 0 →
    executeCommand w s = .next { s with cmd := w, status := 3 }

/-- R93: IllegalCommand has no other cause. A word that matches no row of R54 has one of the four defects, whatever the
state, and a word that matches a row never leaves code 3. -/
def Obligations.IllegalCommandHasFourCauses : Prop :=
  (∀ (w : Word) (x : IllegalWord), decode w = .error x →
    (w.extractLsb' 28 4 = 0 ∨ 0xB ≤ (w.extractLsb' 28 4).toNat) ∨
    (w.getLsbD 27 = true ∧ w.extractLsb' 28 4 ≠ 7) ∨
    ((w.extractLsb' 28 4).toNat ∈ [4, 5, 6, 8, 0xA] ∧ (w.extractLsb' 22 5 ≠ 0 ∨ w.extractLsb' 17 5 ≠ 0)) ∨
    w.extractLsb' 0 17 ≠ 0) ∧
  (∀ (w : Word) (x : IllegalWord) (s : State), decode w = .error x →
    executeCommand w s = .next { s with cmd := w, status := 3 }) ∧
  (∀ (w : Word) (i : Instr) (s t : State), decode w = .ok i → executeCommand w s = .next t → t.status ≠ 3)

/-- R61: each pseudo-instruction is the word the table gives, and does what its "why" column says. -/
def Obligations.PseudoInstructionsExpand : Prop :=
  assemble .brdbyte = some (.write 32 0 0x10100000) ∧ assemble .srdbyte = some (.write 32 0 0x78100000) ∧
  assemble .speekbyte = some (.write 32 0 0x70100000) ∧ assemble .brdu16w = some (.write 32 0 0x30200000) ∧
  (∀ s : State, s.opnd.toNat + 1 ≤ s.buf.len.toNat →
    exec (.brdbits 0 8) s = .next { s with result := (s.buf.byteAt s.opnd.toNat).setWidth 32, status := 0x110 }) ∧
  (∀ s : State, s.pos.toNat + 1 ≤ s.str.len.toNat →
    exec (.sconsumebits 0 8) s =
      .next { s with result := (s.str.byteAt s.pos.toNat).setWidth 32, status := 0x110, pos := s.pos + 1 }) ∧
  (∀ s : State, exec (.speekbits 0 8) s = exec .speek s) ∧
  (∀ s : State, exec (.brdu16bits 0 16) s = exec .brdu16 s)

/-- R60, on lines given as tokens (log 16): the assembler accepts operands in 0..31 and encodes them, ADV = 1 for
`sconsumebits` alone, and refuses any other operand; the decoder reads the word back. The windowless lines are their one
word, and the directives are the host actions R60 names. -/
def Obligations.AssemblerEncodesLines : Prop :=
  (∀ (line : Int → Int → AsmLine) (op : Nat → Nat → Instr) (m : Word),
    (line, op, m) ∈
      [ (AsmLine.brdbits, Instr.brdbits, (0x10000000 : Word)), (AsmLine.xbits, Instr.xbits, 0x20000000),
        (AsmLine.brdu16bits, Instr.brdu16bits, 0x30000000), (AsmLine.speekbits, Instr.speekbits, 0x70000000),
        (AsmLine.sconsumebits, Instr.sconsumebits, 0x78000000),
        (AsmLine.srdu16bits, Instr.srdu16bits, 0x90000000) ] →
    (∀ p l : Nat, p ≤ 31 → l ≤ 31 →
      assemble (line p l) =
        some (.write 32 0 (m ||| (BitVec.ofNat 32 p <<< 22) ||| (BitVec.ofNat 32 l <<< 17))) ∧
      decode (m ||| (BitVec.ofNat 32 p <<< 22) ||| (BitVec.ofNat 32 l <<< 17)) = .ok (op p l)) ∧
    (∀ p l : Int, p < 0 ∨ 31 < p ∨ l < 0 ∨ 31 < l → assemble (line p l) = none)) ∧
  assemble .brdu16 = some (.write 32 0 0x40000000) ∧ assemble .brdipv4 = some (.write 32 0 0x50000000) ∧
  assemble .speek = some (.write 32 0 0x60000000) ∧ assemble .srdu16 = some (.write 32 0 0x80000000) ∧
  assemble .srdipv4 = some (.write 32 0 0xA0000000) ∧
  (∀ v, assemble (.opnd v) = some (.write 32 0x04 v)) ∧ (∀ v, assemble (.setpos v) = some (.write 32 0x10 v)) ∧
  (∀ bytes, assemble (.attachBuf bytes) = some (.attachBuf bytes)) ∧
  (∀ bytes, assemble (.attachStr bytes) = some (.attachStr bytes)) ∧
  (∀ w, assemble (.word w) = some (.write 32 0x00 w))

/-! ### The shared bit-field algorithm (40_bitfield_core.md) -/

/-- R63. -/
def Obligations.WindowCheckAcceptsExactlyLegalWindows : Prop :=
  ∀ W p l : Nat, W = 8 ∨ W = 16 →
    (windowCheck W p l = .error .rangeError ↔ l = 0 ∨ p + l > W) ∧
    (windowCheck W p l = .ok () ↔ 1 ≤ l ∧ p + l ≤ W) ∧
    (windowCheck W p l = .ok () → p ≤ W - 1)

/-- R65: on a legal window of a W-bit value the result is right-aligned, it is the slice that starts at MSB-0 position
p, with that bit its most significant, and it is zero-extended. -/
def Obligations.ExtractBitsIsTheMsbZeroSlice : Prop :=
  ∀ (W : Nat) (v : BitVec W) (p l : Nat), 1 ≤ l → p + l ≤ W →
    (extractBits W v p l).toNat < 2 ^ l ∧
    extractBits W v p l = (v.extractLsb' (W - p - l) l).setWidth W ∧
    (∀ k, k < l → (extractBits W v p l).getLsbD (l - 1 - k) = v.getMsbD (p + k)) ∧
    (∀ k, l ≤ k → (extractBits W v p l).getLsbD k = false)

/-- R67: the corner cases of the algorithm, as numbers. -/
def Obligations.ExtractBitsCornerCases : Prop :=
  ∀ (W : Nat) (v : BitVec W), W = 8 ∨ W = 16 →
    (∀ p l, 1 ≤ l → p + l = W → W - p - l = 0 ∧ (extractBits W v p l).toNat = v.toNat % 2 ^ (W - p)) ∧
    (∀ l, 1 ≤ l → l ≤ W → BitVec.allOnes W >>> 0 = BitVec.allOnes W ∧
      (extractBits W v 0 l).toNat = v.toNat / 2 ^ (W - l)) ∧
    (∀ p, windowCheck W p W = .ok () ↔ p = 0) ∧
    extractBits W v 0 W = v ∧
    (∀ p, p + 1 ≤ W → (extractBits W v p 1).toNat = (v.getMsbD p).toNat) ∧
    (∀ p, windowCheck W p 0 = .error .rangeError) ∧
    (∀ p l, W ≤ p → 1 ≤ l → windowCheck W p l = .error .rangeError) ∧
    (∀ p l, p ≤ 31 → l ≤ 31 → W < p + l → windowCheck W p l = .error .rangeError) ∧
    (∀ p l, windowCheck W p l = .ok () → 0 ≤ (W : Int) - p - l ∧ (W : Int) - p - l < W ∧ p < W)

/-- R36, R37: the read primitives return the n bytes from `a` on when `a + n`, an exact sum, is within the source, and raise
RangeError, or EndOfSource, otherwise. -/
def Obligations.ReadPrimitivesAreBounded : Prop :=
  ∀ (s : State) (a n : Nat), n = 1 ∨ n = 2 ∨ n = 4 →
    (a + n ≤ s.buf.len.toNat → ∃ f, s.bufRead a n = .ok f ∧ ∀ k : Fin n, s.buf.readByte (a + k) = some (f k)) ∧
    (a + n > s.buf.len.toNat → s.bufRead a n = .error .rangeError) ∧
    (a + n ≤ s.str.len.toNat → ∃ f, s.strRead a n = .ok f ∧ ∀ k : Fin n, s.str.readByte (a + k) = some (f k)) ∧
    (a + n > s.str.len.toNat → s.strRead a n = .error .endOfSource)

/-- R39, R40: two bytes form the number b0 * 256 + b1. -/
def Obligations.PairIsBigEndian : Prop :=
  ∀ b0 b1 : Byte, (be16 b0 b1).toNat = b0.toNat * 256 + b1.toNat ∧
    (be16 b0 b1).extractLsb' 8 8 = b0 ∧ (be16 b0 b1).extractLsb' 0 8 = b1

/-- R41: BRDIPV4 and SRDIPV4 put the four bytes, in source order, into RESULT from bits 31:24 down. -/
def Obligations.Ipv4OctetsAreVerbatim : Prop :=
  (∀ s : State, s.opnd.toNat + 4 ≤ s.buf.len.toNat → ∃ t, exec .brdipv4 s = .next t ∧
    some (t.result.extractLsb' 24 8) = s.buf.readByte s.opnd.toNat ∧
    some (t.result.extractLsb' 16 8) = s.buf.readByte (s.opnd.toNat + 1) ∧
    some (t.result.extractLsb' 8 8) = s.buf.readByte (s.opnd.toNat + 2) ∧
    some (t.result.extractLsb' 0 8) = s.buf.readByte (s.opnd.toNat + 3)) ∧
  (∀ s : State, s.pos.toNat + 4 ≤ s.str.len.toNat → ∃ t, exec .srdipv4 s = .next t ∧
    some (t.result.extractLsb' 24 8) = s.str.readByte s.pos.toNat ∧
    some (t.result.extractLsb' 16 8) = s.str.readByte (s.pos.toNat + 1) ∧
    some (t.result.extractLsb' 8 8) = s.str.readByte (s.pos.toNat + 2) ∧
    some (t.result.extractLsb' 0 8) = s.str.readByte (s.pos.toNat + 3))

/-! ### What each command does -/

/-- R68: XBITS. Its words, its result, and its one error. -/
def Obligations.XbitsExtractsOperandByte : Prop :=
  (∀ p l : Nat, p < 32 → l < 32 →
    decode (0x20000000#32 ||| (BitVec.ofNat 32 p <<< 22) ||| (BitVec.ofNat 32 l <<< 17)) = .ok (.xbits p l)) ∧
  (∀ (p l : Nat) (s : State), 1 ≤ l → p + l ≤ 8 →
    exec (.xbits p l) s =
      .next { s with result := (extractBits 8 (s.opnd.extractLsb' 0 8) p l).setWidth 32, status := 0x110 }) ∧
  (∀ (p l : Nat) (s : State), l = 0 ∨ p + l > 8 → exec (.xbits p l) s = .next { s with status := 0x001 })

/-- R72: BRDBITS. -/
def Obligations.BrdbitsExtractsBufferByte : Prop :=
  (∀ p l : Nat, p < 32 → l < 32 →
    decode (0x10000000#32 ||| (BitVec.ofNat 32 p <<< 22) ||| (BitVec.ofNat 32 l <<< 17)) = .ok (.brdbits p l)) ∧
  (∀ (p l : Nat) (s : State), 1 ≤ l → p + l ≤ 8 → s.opnd.toNat + 1 ≤ s.buf.len.toNat →
    exec (.brdbits p l) s =
      .next { s with result := (extractBits 8 (s.buf.byteAt s.opnd.toNat) p l).setWidth 32, status := 0x110 }) ∧
  (∀ (p l : Nat) (s : State), l = 0 ∨ p + l > 8 ∨ s.opnd.toNat + 1 > s.buf.len.toNat →
    exec (.brdbits p l) s = .next { s with status := 0x001 })

/-- R73: BRDU16BITS. -/
def Obligations.Brdu16bitsExtractsBufferPair : Prop :=
  (∀ p l : Nat, p < 32 → l < 32 →
    decode (0x30000000#32 ||| (BitVec.ofNat 32 p <<< 22) ||| (BitVec.ofNat 32 l <<< 17)) = .ok (.brdu16bits p l)) ∧
  (∀ (p l : Nat) (s : State), 1 ≤ l → p + l ≤ 16 → s.opnd.toNat + 2 ≤ s.buf.len.toNat →
    exec (.brdu16bits p l) s =
      .next { s with
        result := (extractBits 16
          (BitVec.ofNat 16 ((s.buf.byteAt s.opnd.toNat).toNat * 256 + (s.buf.byteAt (s.opnd.toNat + 1)).toNat))
          p l).setWidth 32
        status := 0x210 }) ∧
  (∀ (p l : Nat) (s : State), l = 0 ∨ p + l > 16 ∨ s.opnd.toNat + 2 > s.buf.len.toNat →
    exec (.brdu16bits p l) s = .next { s with status := 0x001 })

/-- R74: BRDU16. -/
def Obligations.Brdu16ReadsBufferPair : Prop :=
  decode 0x40000000 = .ok .brdu16 ∧
  (∀ s : State, s.opnd.toNat + 2 ≤ s.buf.len.toNat →
    exec .brdu16 s =
      .next { s with
        result := BitVec.ofNat 32
          ((s.buf.byteAt s.opnd.toNat).toNat * 256 + (s.buf.byteAt (s.opnd.toNat + 1)).toNat)
        status := 0x210 }) ∧
  (∀ s : State, s.opnd.toNat + 2 > s.buf.len.toNat → exec .brdu16 s = .next { s with status := 0x001 })

/-- R75: BRDIPV4. -/
def Obligations.Brdipv4ReadsBufferOctets : Prop :=
  decode 0x50000000 = .ok .brdipv4 ∧
  (∀ s : State, s.opnd.toNat + 4 ≤ s.buf.len.toNat →
    exec .brdipv4 s =
      .next { s with
        result := s.buf.byteAt s.opnd.toNat ++ s.buf.byteAt (s.opnd.toNat + 1) ++
          s.buf.byteAt (s.opnd.toNat + 2) ++ s.buf.byteAt (s.opnd.toNat + 3)
        status := 0x310 }) ∧
  (∀ s : State, s.opnd.toNat + 4 > s.buf.len.toNat → exec .brdipv4 s = .next { s with status := 0x001 })

/-- R79: SPEEK. -/
def Obligations.SpeekReadsStreamByte : Prop :=
  decode 0x60000000 = .ok .speek ∧
  (∀ s : State, s.pos.toNat + 1 ≤ s.str.len.toNat →
    exec .speek s = .next { s with result := (s.str.byteAt s.pos.toNat).setWidth 32, status := 0x110 }) ∧
  (∀ s : State, s.pos.toNat + 1 > s.str.len.toNat → exec .speek s = .next { s with status := 0x002 })

/-- R80: SPEEKBITS. -/
def Obligations.SpeekbitsExtractsStreamByte : Prop :=
  (∀ p l : Nat, p < 32 → l < 32 →
    decode (0x70000000#32 ||| (BitVec.ofNat 32 p <<< 22) ||| (BitVec.ofNat 32 l <<< 17)) = .ok (.speekbits p l)) ∧
  (∀ (p l : Nat) (s : State), 1 ≤ l → p + l ≤ 8 → s.pos.toNat + 1 ≤ s.str.len.toNat →
    exec (.speekbits p l) s =
      .next { s with result := (extractBits 8 (s.str.byteAt s.pos.toNat) p l).setWidth 32, status := 0x110 }) ∧
  (∀ (p l : Nat) (s : State), l = 0 ∨ p + l > 8 → exec (.speekbits p l) s = .next { s with status := 0x001 }) ∧
  (∀ (p l : Nat) (s : State), 1 ≤ l → p + l ≤ 8 → s.pos.toNat + 1 > s.str.len.toNat →
    exec (.speekbits p l) s = .next { s with status := 0x002 })

/-- R81: SCONSUMEBITS. -/
def Obligations.SconsumebitsConsumesOneByte : Prop :=
  (∀ p l : Nat, p < 32 → l < 32 →
    decode (0x78000000#32 ||| (BitVec.ofNat 32 p <<< 22) ||| (BitVec.ofNat 32 l <<< 17)) = .ok (.sconsumebits p l)) ∧
  (∀ (p l : Nat) (s : State), 1 ≤ l → p + l ≤ 8 → s.pos.toNat + 1 ≤ s.str.len.toNat →
    exec (.sconsumebits p l) s =
      .next { s with
        result := (extractBits 8 (s.str.byteAt s.pos.toNat) p l).setWidth 32
        status := 0x110
        pos := BitVec.ofNat 32 (s.pos.toNat + 1) }) ∧
  (∀ (p l : Nat) (s : State), l = 0 ∨ p + l > 8 → exec (.sconsumebits p l) s = .next { s with status := 0x001 }) ∧
  (∀ (p l : Nat) (s : State), 1 ≤ l → p + l ≤ 8 → s.pos.toNat + 1 > s.str.len.toNat →
    exec (.sconsumebits p l) s = .next { s with status := 0x002 })

/-- R82: SRDU16. -/
def Obligations.Srdu16ConsumesPair : Prop :=
  decode 0x80000000 = .ok .srdu16 ∧
  (∀ s : State, s.pos.toNat + 2 ≤ s.str.len.toNat →
    exec .srdu16 s =
      .next { s with
        result := BitVec.ofNat 32
          ((s.str.byteAt s.pos.toNat).toNat * 256 + (s.str.byteAt (s.pos.toNat + 1)).toNat)
        status := 0x210
        pos := BitVec.ofNat 32 (s.pos.toNat + 2) }) ∧
  (∀ s : State, s.pos.toNat + 2 > s.str.len.toNat → exec .srdu16 s = .next { s with status := 0x002 })

/-- R83: SRDU16BITS. -/
def Obligations.Srdu16bitsConsumesPair : Prop :=
  (∀ p l : Nat, p < 32 → l < 32 →
    decode (0x90000000#32 ||| (BitVec.ofNat 32 p <<< 22) ||| (BitVec.ofNat 32 l <<< 17)) = .ok (.srdu16bits p l)) ∧
  (∀ (p l : Nat) (s : State), 1 ≤ l → p + l ≤ 16 → s.pos.toNat + 2 ≤ s.str.len.toNat →
    exec (.srdu16bits p l) s =
      .next { s with
        result := (extractBits 16
          (BitVec.ofNat 16 ((s.str.byteAt s.pos.toNat).toNat * 256 + (s.str.byteAt (s.pos.toNat + 1)).toNat))
          p l).setWidth 32
        status := 0x210
        pos := BitVec.ofNat 32 (s.pos.toNat + 2) }) ∧
  (∀ (p l : Nat) (s : State), l = 0 ∨ p + l > 16 → exec (.srdu16bits p l) s = .next { s with status := 0x001 }) ∧
  (∀ (p l : Nat) (s : State), 1 ≤ l → p + l ≤ 16 → s.pos.toNat + 2 > s.str.len.toNat →
    exec (.srdu16bits p l) s = .next { s with status := 0x002 })

/-- R84: SRDIPV4. -/
def Obligations.Srdipv4ConsumesOctets : Prop :=
  decode 0xA0000000 = .ok .srdipv4 ∧
  (∀ s : State, s.pos.toNat + 4 ≤ s.str.len.toNat →
    exec .srdipv4 s =
      .next { s with
        result := s.str.byteAt s.pos.toNat ++ s.str.byteAt (s.pos.toNat + 1) ++
          s.str.byteAt (s.pos.toNat + 2) ++ s.str.byteAt (s.pos.toNat + 3)
        status := 0x310
        pos := BitVec.ofNat 32 (s.pos.toNat + 4) }) ∧
  (∀ s : State, s.pos.toNat + 4 > s.str.len.toNat → exec .srdipv4 s = .next { s with status := 0x002 })

/-! ### Errors, completion and priority (60_exceptions.md) -/

/-- R88-R90: what `Complete` and `raise` write, with the codes of R88. -/
def Obligations.CompleteAndRaiseWriteTheirCodes : Prop :=
  ∀ (s : State) (v : Word),
    s.complete .byte v = { s with result := v, status := 0x00000110 } ∧
    s.complete .u16 v = { s with result := v, status := 0x00000210 } ∧
    s.complete .ipv4 v = { s with result := v, status := 0x00000310 } ∧
    s.raise .rangeError = { s with status := 1 } ∧
    s.raise .endOfSource = { s with status := 2 } ∧
    s.raise .illegalCommand = { s with status := 3 } ∧
    (∀ k, statusErr (s.complete k v).status = 0) ∧
    (∀ e, statusErr (s.raise e).status ≠ 0 ∧ statusValid (s.raise e).status = false ∧
      statusRkind (s.raise e).status = 0)

/-- R91, R92, R94: the one error a CMD write reports is the first that applies: IllegalCommand, then RangeError for the
window, then the source bound, RangeError for a buffer command and EndOfSource for a stream command. It records nothing but
its code: CMD, OPND and POS still show what failed. When none applies the command succeeds, with no error. -/
def Obligations.FirstApplicableErrorIsReported : Prop :=
  ∀ (w : Word) (s : State), ∃ t, executeCommand w s = .next t ∧
    match decode w with
    | .error _ => t = { s with cmd := w, status := 3 }
    | .ok i =>
      (windowLegal i = false → t = { s with cmd := w, status := 1 }) ∧
      (windowLegal i = true → inBounds i s = false →
        (sourceUse i = .buffer → t = { s with cmd := w, status := 1 }) ∧
        (sourceUse i = .stream → t = { s with cmd := w, status := 2 })) ∧
      (windowLegal i = true → inBounds i s = true →
        statusErr t.status = 0 ∧ statusValid t.status = true ∧ (statusRkind t.status).toNat = kindCode i)

/-- R86: a CMD write whose command raises an error changes CMD, which the host wrote, and STATUS, and nothing else. -/
def Obligations.FailingCommandWritesOnlyStatus : Prop :=
  ∀ (w : Word) (s t : State), executeCommand w s = .next t → statusErr t.status ≠ 0 →
    t = { s with cmd := w, status := t.status }

/-- R22, R24: the status a command leaves: one of six values, VALID = 1 exactly when ERR = 0, RKIND = 0 after an error and
the kind of the command's result after a success. -/
def Obligations.CommandRewritesStatusFields : Prop :=
  ∀ (w : Word) (s t : State), executeCommand w s = .next t →
    t.status ∈ [0x110, 0x210, 0x310, 0x001, 0x002, 0x003] ∧
    (statusErr t.status).toNat ≤ 3 ∧
    (statusValid t.status = true ↔ statusErr t.status = 0) ∧
    (statusErr t.status ≠ 0 → statusRkind t.status = 0) ∧
    (∀ i, decode w = .ok i → statusErr t.status = 0 → (statusRkind t.status).toNat = kindCode i)

/-- R23: `Complete` sets VALID and a raised error clears it, and VALID = 1 exactly when ERR = 0 and a command has executed since
reset: from a state with STATUS = 0, as a reset leaves it, over any number of host actions without another reset. -/
def Obligations.ValidMeansNoErrorAndExecutedSinceReset : Prop :=
  (∀ k, statusValid (successStatus k) = true) ∧ (∀ e, statusValid (errorStatus e) = false) ∧
  ∀ (k : Nat) (s t : State), s.status = 0 → (∀ e ∈ s.pending.take k, e.action ≠ .reset) → runSteps k s = .next t →
    (statusValid t.status = true ↔
      statusErr t.status = 0 ∧ ∃ e ∈ s.pending.take k, ∃ w, e.action = .write 32 0x00 w)

/-- R28: no command's behaviour depends on STATUS. -/
def Obligations.CommandsIgnoreStatus : Prop :=
  ∀ (w x : Word) (s : State), executeCommand w { s with status := x } = executeCommand w s

/-- R104: with no source attached every buffer command raises RangeError, every stream command EndOfSource (or RangeError
for an illegal window), every illegal word IllegalCommand, and XBITS works. -/
def Obligations.UnattachedSourcesGiveErrors : Prop :=
  ∀ s : State, s.buf.len = 0 → s.str.len = 0 →
    (∀ i, sourceUse i = .buffer → exec i s = .next { s with status := 1 }) ∧
    (∀ i, sourceUse i = .stream → windowLegal i = true → exec i s = .next { s with status := 2 }) ∧
    (∀ i, sourceUse i = .stream → windowLegal i = false → exec i s = .next { s with status := 1 }) ∧
    (∀ w x, decode w = .error x → executeCommand w s = .next { s with cmd := w, status := 3 }) ∧
    (∀ p l, 1 ≤ l → p + l ≤ 8 → ∃ t, exec (.xbits p l) s = .next t ∧ t.status = 0x110)

/-- R38: bounds sums are exact and do not wrap. A buffer command with OPND = 0xFFFFFFFF always fails, a successful command reads no address above
2^32 - 2, and POS moves by the exact sum, never past STR_LEN. -/
def Obligations.BoundsArithmeticNeverWraps : Prop :=
  (∀ (s : State) (a n : Nat), s.bufRead a n = .error .rangeError ↔ s.buf.len.toNat < a + n) ∧
  (∀ (s : State) (a n : Nat), s.strRead a n = .error .endOfSource ↔ s.str.len.toNat < a + n) ∧
  (∀ (i : Instr) (s : State), sourceUse i = .buffer → s.opnd = 0xFFFFFFFF → exec i s = .next { s with status := 1 }) ∧
  (∀ (i : Instr) (s t : State), sourceUse i = .buffer → exec i s = .next t → statusErr t.status = 0 →
    s.opnd.toNat + bytesRead i ≤ s.buf.len.toNat ∧ s.opnd.toNat + bytesRead i - 1 ≤ 2 ^ 32 - 2) ∧
  (∀ (i : Instr) (s t : State), sourceUse i = .stream → exec i s = .next t → statusErr t.status = 0 →
    s.pos.toNat + bytesRead i - 1 ≤ 2 ^ 32 - 2 ∧
    t.pos.toNat = s.pos.toNat + posChange i ∧ t.pos.toNat ≤ s.str.len.toNat)

/-! ### Frames -/

/-- R35, R18: no command writes a source, OPND or CMD, nor the environment's side of the state. Every byte of both sources
reads as before. -/
def Obligations.CommandsKeepOperandsAndSources : Prop :=
  ∀ (i : Instr) (s t : State), exec i s = .next t →
    t.cmd = s.cmd ∧ t.opnd = s.opnd ∧ t.buf = s.buf ∧ t.str = s.str ∧
    (∀ a, t.buf.readByte a = s.buf.readByte a) ∧ (∀ a, t.str.readByte a = s.str.readByte a) ∧
    t.pending = s.pending ∧ t.reads = s.reads

/-- R71, R78: the buffer commands, XBITS and the peeks change RESULT and STATUS alone. POS stays, whether they succeed or
fail. -/
def Obligations.NonConsumingCommandsKeepPos : Prop :=
  ∀ (i : Instr) (s t : State),
    (∃ p l, i = .brdbits p l ∨ i = .xbits p l ∨ i = .brdu16bits p l ∨ i = .speekbits p l) ∨
      i = .brdu16 ∨ i = .brdipv4 ∨ i = .speek →
    exec i s = .next t → t = { s with result := t.result, status := t.status } ∧ t.pos = s.pos

/-- R77, R86: a consuming command changes RESULT, STATUS and POS alone, and POS by its byte count on success and not at all
on an error. -/
def Obligations.ConsumingCommandsAdvanceOnlyOnSuccess : Prop :=
  ∀ (i : Instr) (n : Nat) (s t : State),
    (∃ p l, (i = .sconsumebits p l ∧ n = 1) ∨ (i = .srdu16bits p l ∧ n = 2)) ∨ (i = .srdu16 ∧ n = 2) ∨
      (i = .srdipv4 ∧ n = 4) →
    exec i s = .next t →
    t = { s with result := t.result, status := t.status, pos := t.pos } ∧
    (statusErr t.status = 0 → t.pos.toNat = s.pos.toNat + n) ∧
    (statusErr t.status ≠ 0 → t.pos = s.pos ∧ t.result = s.result)

/-- R20: only a host write to POS, a successful consuming command, by its byte count, and a reset change POS. -/
def Obligations.PosChangesOnlyByWriteConsumeOrReset : Prop :=
  ∀ s t : State, step s = .next t → t.pos ≠ s.pos →
    ∃ e rest, s.pending = e :: rest ∧
      ((∃ v, e.action = .write 32 0x10 v ∧ t.pos = v) ∨
       (∃ w i, e.action = .write 32 0x00 w ∧ decode w = .ok i ∧ statusErr t.status = 0 ∧ 0 < posChange i ∧
          t.pos.toNat = s.pos.toNat + posChange i) ∨
       (e.action = .reset ∧ t.pos = 0))

/-- R19, R22: only a CMD write that succeeds, and a reset, change RESULT; only a CMD write and a reset change STATUS. -/
def Obligations.ResultAndStatusChangeOnlyByCommandOrReset : Prop :=
  ∀ s t : State, step s = .next t →
    (t.result ≠ s.result → ∃ e rest, s.pending = e :: rest ∧
      ((∃ w, e.action = .write 32 0x00 w ∧ statusValid t.status = true) ∨ e.action = .reset)) ∧
    (t.status ≠ s.status → ∃ e rest, s.pending = e :: rest ∧
      ((∃ w, e.action = .write 32 0x00 w) ∨ e.action = .reset))

/-! ### Properties of the accessors -/

/-- R71: a buffer command is stateless. It writes RESULT and STATUS on success and STATUS on an error, and two executions
with the same OPND and buffer agree, whatever else differs. -/
def Obligations.BufferCommandsAreStateless : Prop :=
  ∀ (i : Instr) (s t s' t' : State), sourceUse i = .buffer → exec i s = .next t → exec i s' = .next t' →
    (statusErr t.status = 0 → t = { s with result := t.result, status := t.status }) ∧
    (statusErr t.status ≠ 0 → t = { s with status := 1 }) ∧
    (s'.opnd = s.opnd → s'.buf = s.buf → t'.status = t.status ∧
      (statusErr t.status = 0 → t'.result = t.result) ∧ (s'.result = s.result → t'.result = t.result))

/-- R18: stream commands do not read OPND, and XBITS reads OPND[7:0] alone. -/
def Obligations.OpndIsReadOnlyWhereTheSpecSays : Prop :=
  (∀ (i : Instr) (s : State) (x : Word), sourceUse i = .stream →
    ∃ t, exec i s = .next t ∧ exec i { s with opnd := x } = .next { t with opnd := x }) ∧
  (∀ (p l : Nat) (s : State) (x : Word), x.extractLsb' 0 8 = s.opnd.extractLsb' 0 8 →
    ∃ t, exec (.xbits p l) s = .next t ∧ exec (.xbits p l) { s with opnd := x } = .next { t with opnd := x })

/-- R76: the full-window ushort read equals the plain ushort read, and both raise RangeError where the pair is short. -/
def Obligations.FullWindowReadEqualsPlainRead : Prop :=
  ∀ s : State,
    (s.opnd.toNat + 2 ≤ s.buf.len.toNat → exec (.brdu16bits 0 16) s = exec .brdu16 s) ∧
    (s.opnd.toNat + 2 > s.buf.len.toNat →
      exec (.brdu16bits 0 16) s = .next { s with status := 1 } ∧ exec .brdu16 s = .next { s with status := 1 })

/-- R85: a peek and then a consuming byte read give the same byte and move POS by 1. A windowed peek done twice gives the
same RESULT and STATUS and moves POS by 0, and the windowed consume that succeeds moves it by 1. -/
def Obligations.PeekIsCursorNeutral : Prop :=
  (∀ s : State, s.pos.toNat < s.str.len.toNat → ∃ t u,
    exec .speek s = .next t ∧ exec (.sconsumebits 0 8) t = .next u ∧ u.result = t.result ∧
    statusValid t.status = true ∧ statusValid u.status = true ∧ t.pos = s.pos ∧ u.pos.toNat = s.pos.toNat + 1) ∧
  (∀ (p l : Nat) (s : State), ∃ t u,
    exec (.speekbits p l) s = .next t ∧ exec (.speekbits p l) t = .next u ∧
    u.result = t.result ∧ u.status = t.status ∧ t.pos = s.pos ∧ u.pos = s.pos) ∧
  (∀ (p l : Nat) (s u : State), exec (.sconsumebits p l) s = .next u → statusErr u.status = 0 →
    u.pos.toNat = s.pos.toNat + 1)

/-- R111 (R20, R37): let `s` be any state with a stream command executed in it, and `s'` any state with the same stream
source, whatever happened to the unit in between. Writing the POS of `s` back in `s'` makes every stream read return the bytes
it returned in `s`, and the same command there gives the same STATUS and POS and, where it completes, the same RESULT (a
failing one leaves RESULT alone); nothing else of the state changes. -/
def Obligations.RewindRereadsTheSameBytes : Prop :=
  ∀ (i : Instr) (s s' t : State), sourceUse i = .stream → s'.str = s.str → exec i s = .next t →
    ∃ u, hostWrite 0x10 s.pos s' = .next u ∧ u = { s' with pos := s.pos } ∧
      (∀ n, u.strRead u.cursor n = s.strRead s.cursor n) ∧
      exec i u = .next { u with
        pos := t.pos, status := t.status, result := if statusValid t.status then t.result else u.result }

/-! ### The host's side (10_state.md R15-R17, 70_reset_and_hazards.md) -/

/-- R17: a step that performs a CMD write puts the word in CMD and runs the command it decodes to, once, or raises
IllegalCommand. Nothing else is around it: the unit has no program counter (R14). -/
def Obligations.StepRunsTheDecodedCommand : Prop :=
  ∀ (s : State) (h : Nat) (w : Word) (rest : List HostEvent), s.pending = ⟨h, .write 32 0x00 w⟩ :: rest →
    (∀ i, decode w = .ok i → step s = exec i { s with cmd := w, pending := rest }) ∧
    (∀ x, decode w = .error x → step s = .next { s with cmd := w, status := 3, pending := rest })

/-- R15: what a host read of each offset returns, and that it changes nothing of the unit. -/
def Obligations.PortReadFollowsRegisterMap : Prop :=
  ∀ (s : State) (h offset : Nat) (rest : List HostEvent), s.pending = ⟨h, .read 32 offset⟩ :: rest →
    offset % 4 = 0 → offset ≤ 0xFC →
    step s = .next { s with
      pending := rest
      reads := s.reads ++ [⟨h, offset,
        if offset = 0x00 then s.cmd else if offset = 0x04 then s.opnd else if offset = 0x08 then s.result
        else if offset = 0x0C then s.status &&& 0x0000031F else if offset = 0x10 then s.pos
        else if offset = 0x14 then s.buf.len else if offset = 0x18 then s.str.len else 0⟩] }

/-- R16: the access rules of the port. An access that is not a 32-bit access at a multiple of 4 up to 0xFC is refused; a
write to a read-only register or a reserved offset is ignored; a reserved offset reads 0; a read has no side effect; only a
CMD write executes a command. -/
def Obligations.PortAccessRules : Prop :=
  ∀ (s : State) (h width offset : Nat) (v : Word) (rest : List HostEvent),
    (¬ (width = 32 ∧ offset % 4 = 0 ∧ offset ≤ 0xFC) →
      (s.pending = ⟨h, .write width offset v⟩ :: rest → step s = .refused (.outsideInterface width offset)) ∧
      (s.pending = ⟨h, .read width offset⟩ :: rest → step s = .refused (.outsideInterface width offset))) ∧
    (width = 32 ∧ offset % 4 = 0 ∧ offset ≤ 0xFC →
      (s.pending = ⟨h, .write width offset v⟩ :: rest →
        (offset ∈ [0x08, 0x0C, 0x14, 0x18] ∨ 0x1C ≤ offset → step s = .next { s with pending := rest }) ∧
        (offset ≠ 0x00 → ∃ t, step s = .next t ∧ t.cmd = s.cmd ∧ t.result = s.result ∧ t.status = s.status)) ∧
      (s.pending = ⟨h, .read width offset⟩ :: rest → ∃ x,
        step s = .next { s with pending := rest, reads := s.reads ++ [⟨h, offset, x⟩] } ∧
        (0x1C ≤ offset → x = 0)))

/-- R18, R20: the host writes any value to OPND and to POS, and nothing else changes. -/
def Obligations.HostWritesOpndAndPos : Prop :=
  ∀ (s : State) (h : Nat) (v : Word) (rest : List HostEvent),
    (s.pending = ⟨h, .write 32 0x04 v⟩ :: rest → step s = .next { s with opnd := v, pending := rest }) ∧
    (s.pending = ⟨h, .write 32 0x10 v⟩ :: rest → step s = .next { s with pos := v, pending := rest })

/-- R25-R27, R110: attaching a source makes its bytes readable at 0 .. n-1 and no other, makes the length register read n,
and changes nothing else, POS included. A source longer than 2^32 - 1 bytes is refused by name (log 6, the model's choice). -/
def Obligations.AttachedBytesReadBack : Prop :=
  ∀ (s : State) (h : Nat) (bytes : List Byte) (rest : List HostEvent),
    (bytes.length ≤ 2 ^ 32 - 1 →
      (s.pending = ⟨h, .attachBuf bytes⟩ :: rest → ∃ m, step s = .next { s with buf := m, pending := rest } ∧
        m.len.toNat = bytes.length ∧ ∀ a, m.readByte a = bytes[a]?) ∧
      (s.pending = ⟨h, .attachStr bytes⟩ :: rest → ∃ m, step s = .next { s with str := m, pending := rest } ∧
        m.len.toNat = bytes.length ∧ ∀ a, m.readByte a = bytes[a]?)) ∧
    (2 ^ 32 - 1 < bytes.length →
      s.pending = ⟨h, .attachBuf bytes⟩ :: rest ∨ s.pending = ⟨h, .attachStr bytes⟩ :: rest →
      step s = .refused (.sourceTooLong bytes.length))

/-- R31, R32, R102: reset sets the five registers to 0 and changes nothing else, the sources included; at power-on no source
is attached and both lengths read 0. -/
def Obligations.ResetClearsRegistersKeepsSources : Prop :=
  (∀ (s : State) (h : Nat) (rest : List HostEvent), s.pending = ⟨h, .reset⟩ :: rest →
    step s = .next { s with cmd := 0, opnd := 0, result := 0, status := 0, pos := 0, pending := rest }) ∧
  State.reset.cmd = 0 ∧ State.reset.opnd = 0 ∧ State.reset.result = 0 ∧ State.reset.status = 0 ∧
  State.reset.pos = 0 ∧ State.reset.readReg .bufLen = 0 ∧ State.reset.readReg .strLen = 0 ∧
  (∀ a, State.reset.buf.readByte a = none ∧ State.reset.str.readByte a = none)

/-- R106, R107: the host access after a CMD write sees the command's whole effect: the reads of STATUS, RESULT and POS that
follow return the values the command left. -/
def Obligations.NextReadsSeeTheCommandsEffect : Prop :=
  ∀ (s t : State) (h : Nat) (w : Word) (rest : List HostEvent),
    s.pending = ⟨h, .write 32 0x00 w⟩ :: ⟨h, .read 32 0x0C⟩ :: ⟨h, .read 32 0x08⟩ :: ⟨h, .read 32 0x10⟩ :: rest →
    executeCommand w { s with pending := rest } = .next t →
    runSteps 4 s = .next { t with
      reads := s.reads ++ [⟨h, 0x0C, t.status⟩, ⟨h, 0x08, t.result⟩, ⟨h, 0x10, t.pos⟩] }

/-! ### Whole-machine statements -/

/-- The invariant holds at reset. -/
def Obligations.ResetMeetsTheInvariant : Prop := State.Inv State.reset

/-- R19, R21, R23, R31: every step keeps the invariant: STATUS holds a listed value, a byte or 16-bit result fits its width,
STATUS = 0 means that nothing has executed since reset, and both sources are in canonical form (log 5, the model's form). -/
def Obligations.StepKeepsTheInvariant : Prop :=
  ∀ s t : State, s.Inv → step s = .next t → t.Inv

/-- Log 5 (the model's form): canonical sources with the same bytes and length are the same data. -/
def Obligations.CanonicalSourcesAreEqualData : Prop :=
  ∀ m n : Memory, m.wf = true → n.wf = true → m.len = n.len → (∀ a, m.readByte a = n.readByte a) → m = n

/-- R3, R106, R112, R113: while every pending host action is inside the interface, no step stops: any number of steps
answers a next state, and after as many steps as there are actions none is pending. -/
def Obligations.RunsInsideTheInterfaceNeverStop : Prop :=
  ∀ (k : Nat) (s : State), s.pendingInside = true →
    ∃ t, runSteps k s = .next t ∧ t.pending = s.pending.drop k

/-- R109: from a peek to the consuming read meant for its byte, as long as the actions in between leave POS and the stream
source alone, the consuming read returns the byte the peek saw and moves POS past it. -/
def Obligations.ExclusiveCursorConsumesThePeekedByte : Prop :=
  ∀ (s : State) (h : Nat) (between rest : List HostEvent),
    s.pending = ⟨h, .write 32 0x00 0x60000000⟩ :: (between ++ ⟨h, .write 32 0x00 0x78100000⟩ :: rest) →
    (∀ e ∈ between, e.action.inside = true ∧ e.action.sparesCursor = true) →
    s.pos.toNat < s.str.len.toNat →
    ∃ t u, runSteps 1 s = .next t ∧ runSteps (between.length + 2) s = .next u ∧
      some (t.result.setWidth 8) = s.str.readByte s.pos.toNat ∧ u.result = t.result ∧
      u.pos.toNat = s.pos.toNat + 1 ∧ u.pending = rest

/-- R46, R99: in every interleaving of the hosts' programs each host's reads return in its own program's order, one for
each read of the program. -/
def Obligations.HostsReadInProgramOrder : Prop :=
  ∀ (programs : List (List HostAction)) (s t : State), Interleaves programs s.pending → s.reads = [] →
    runSteps s.pending.length s = .next t →
    ∀ h, (t.reads.filter fun r => r.host == h).map ReadRecord.offset = readOffsets (programs.getD h [])
end

