-- ==== Sys2Proof/Laws/Memory.lean ====
section
/-! SUPPORT. A source's canonical form, kept by every operation that makes one, and reading back what was attached. -/

namespace Sys2Proof.Machine

/-- No cell below an address: the address reads as unlisted. -/
theorem cellAt_cellsFrom_of_lt (bytes : List Byte) (a x : Nat) (h : x < a) :
    cellAt (cellsFrom a bytes) x = Memory.unlisted := by
  induction bytes generalizing a with
  | nil => rfl
  | cons b bs ih =>
    unfold cellsFrom
    split
    · exact ih (a + 1) (by omega)
    · rw [cellAt, if_neg (by omega)]
      exact ih (a + 1) (by omega)

/-- Reading a source made of bytes gives the bytes. -/
theorem cellAt_cellsFrom (bytes : List Byte) (a k : Nat) :
    cellAt (cellsFrom a bytes) (a + k) = bytes.getD k Memory.unlisted := by
  induction bytes generalizing a k with
  | nil => rfl
  | cons b bs ih =>
    unfold cellsFrom
    cases k with
    | zero =>
      split
      · rename_i hb
        rw [cellAt_cellsFrom_of_lt bs (a + 1) (a + 0) (by omega), List.getD_cons_zero, hb]
      · rw [cellAt, if_pos (by omega), List.getD_cons_zero]
    | succ k =>
      rw [show a + (k + 1) = (a + 1) + k by omega, List.getD_cons_succ]
      split
      · exact ih (a + 1) k
      · rw [cellAt, if_neg (by omega)]
        exact ih (a + 1) k

/-- The cells of bytes are canonical. -/
theorem cellsCanonical_cellsFrom (bytes : List Byte) (a lo hi : Nat) (hlo : lo ≤ a) (hhi : a + bytes.length ≤ hi) :
    cellsCanonical lo hi (cellsFrom a bytes) = true := by
  induction bytes generalizing a lo with
  | nil => rfl
  | cons b bs ih =>
    simp only [List.length_cons] at hhi
    unfold cellsFrom
    split
    · exact ih (a + 1) lo (by omega) (by omega)
    · rename_i hb
      have hrest := ih (a + 1) (a + 1) (Nat.le_refl _) (by omega)
      simp only [cellsCanonical, hrest, Bool.and_true, Bool.and_eq_true, decide_eq_true_eq, bne_iff_ne]
      exact ⟨⟨hlo, by omega⟩, hb⟩

theorem Memory.ofBytes_len {bytes : List Byte} (h : bytes.length ≤ Config.maxSrcLen) :
    (Memory.ofBytes bytes).len.toNat = bytes.length := by
  have h' : bytes.length ≤ 2 ^ 32 - 1 := h
  rw [Memory.ofBytes, BitVec.toNat_ofNat]
  omega

theorem Memory.ofBytes_byteAt (bytes : List Byte) (a : Nat) :
    (Memory.ofBytes bytes).byteAt a = bytes.getD a Memory.unlisted := by
  have h := cellAt_cellsFrom bytes 0 a
  rwa [Nat.zero_add] at h

/-- Attaching makes a source in canonical form. -/
theorem Memory.ofBytes_wf {bytes : List Byte} (h : bytes.length ≤ Config.maxSrcLen) :
    (Memory.ofBytes bytes).wf = true := by
  unfold Memory.wf
  rw [Memory.ofBytes_len h]
  exact cellsCanonical_cellsFrom bytes 0 0 _ (Nat.le_refl _) (by omega)

theorem Memory.empty_wf : Memory.empty.wf = true := rfl

theorem Memory.readByte_of_lt {m : Memory} {a : Nat} (h : a < m.len.toNat) : m.readByte a = some (m.byteAt a) := by
  unfold Memory.readByte
  rw [if_pos h]

theorem Memory.readByte_of_le {m : Memory} {a : Nat} (h : m.len.toNat ≤ a) : m.readByte a = none := by
  unfold Memory.readByte
  rw [if_neg (by omega)]

/-- An address below a canonical list's first one is unlisted. -/
theorem cellAt_of_canonical_lt {cells : List Host.Cell} {lo hi x : Nat} (h : cellsCanonical lo hi cells = true)
    (hx : x < lo) : cellAt cells x = Memory.unlisted := by
  induction cells generalizing lo with
  | nil => rfl
  | cons c rest ih =>
    obtain ⟨a, b⟩ := c
    simp only [cellsCanonical, Bool.and_eq_true, decide_eq_true_eq, bne_iff_ne] at h
    obtain ⟨⟨⟨hlo, -⟩, -⟩, hrest⟩ := h
    rw [cellAt, if_neg (by omega)]
    exact ih hrest (by omega)

end Sys2Proof.Machine
end

