-- ==== Sys2Proof/Laws/State.lean ====
section
/-! SUPPORT. One lemma per field per update of State, each true by `rfl`. -/

namespace Sys2Proof.Machine

/-! ### `State.complete` -/

@[simp] theorem State.complete_cmd (s : State) (k : ResultKind) (v : Word) : (s.complete k v).cmd = s.cmd := rfl
@[simp] theorem State.complete_opnd (s : State) (k : ResultKind) (v : Word) : (s.complete k v).opnd = s.opnd := rfl
@[simp] theorem State.complete_result (s : State) (k : ResultKind) (v : Word) : (s.complete k v).result = v := rfl
@[simp] theorem State.complete_status (s : State) (k : ResultKind) (v : Word) : (s.complete k v).status = successStatus k :=
    rfl
@[simp] theorem State.complete_pos (s : State) (k : ResultKind) (v : Word) : (s.complete k v).pos = s.pos := rfl
@[simp] theorem State.complete_buf (s : State) (k : ResultKind) (v : Word) : (s.complete k v).buf = s.buf := rfl
@[simp] theorem State.complete_str (s : State) (k : ResultKind) (v : Word) : (s.complete k v).str = s.str := rfl
@[simp] theorem State.complete_pending (s : State) (k : ResultKind) (v : Word) : (s.complete k v).pending = s.pending :=
    rfl
@[simp] theorem State.complete_reads (s : State) (k : ResultKind) (v : Word) : (s.complete k v).reads = s.reads := rfl

/-! ### `State.raise` -/

@[simp] theorem State.raise_cmd (s : State) (e : ErrorKind) : (s.raise e).cmd = s.cmd := rfl
@[simp] theorem State.raise_opnd (s : State) (e : ErrorKind) : (s.raise e).opnd = s.opnd := rfl
@[simp] theorem State.raise_result (s : State) (e : ErrorKind) : (s.raise e).result = s.result := rfl
@[simp] theorem State.raise_status (s : State) (e : ErrorKind) : (s.raise e).status = errorStatus e := rfl
@[simp] theorem State.raise_pos (s : State) (e : ErrorKind) : (s.raise e).pos = s.pos := rfl
@[simp] theorem State.raise_buf (s : State) (e : ErrorKind) : (s.raise e).buf = s.buf := rfl
@[simp] theorem State.raise_str (s : State) (e : ErrorKind) : (s.raise e).str = s.str := rfl
@[simp] theorem State.raise_pending (s : State) (e : ErrorKind) : (s.raise e).pending = s.pending := rfl
@[simp] theorem State.raise_reads (s : State) (e : ErrorKind) : (s.raise e).reads = s.reads := rfl

/-! ### `State.advance` -/

@[simp] theorem State.advance_cmd (s : State) (n : Nat) : (s.advance n).cmd = s.cmd := rfl
@[simp] theorem State.advance_opnd (s : State) (n : Nat) : (s.advance n).opnd = s.opnd := rfl
@[simp] theorem State.advance_result (s : State) (n : Nat) : (s.advance n).result = s.result := rfl
@[simp] theorem State.advance_status (s : State) (n : Nat) : (s.advance n).status = s.status := rfl
@[simp] theorem State.advance_pos (s : State) (n : Nat) : (s.advance n).pos = s.pos + BitVec.ofNat 32 n := rfl
@[simp] theorem State.advance_buf (s : State) (n : Nat) : (s.advance n).buf = s.buf := rfl
@[simp] theorem State.advance_str (s : State) (n : Nat) : (s.advance n).str = s.str := rfl
@[simp] theorem State.advance_pending (s : State) (n : Nat) : (s.advance n).pending = s.pending := rfl
@[simp] theorem State.advance_reads (s : State) (n : Nat) : (s.advance n).reads = s.reads := rfl

/-! ### `State.resetUnit` -/

@[simp] theorem State.resetUnit_cmd (s : State) : (s.resetUnit).cmd = 0 := rfl
@[simp] theorem State.resetUnit_opnd (s : State) : (s.resetUnit).opnd = 0 := rfl
@[simp] theorem State.resetUnit_result (s : State) : (s.resetUnit).result = 0 := rfl
@[simp] theorem State.resetUnit_status (s : State) : (s.resetUnit).status = 0 := rfl
@[simp] theorem State.resetUnit_pos (s : State) : (s.resetUnit).pos = 0 := rfl
@[simp] theorem State.resetUnit_buf (s : State) : (s.resetUnit).buf = s.buf := rfl
@[simp] theorem State.resetUnit_str (s : State) : (s.resetUnit).str = s.str := rfl
@[simp] theorem State.resetUnit_pending (s : State) : (s.resetUnit).pending = s.pending := rfl
@[simp] theorem State.resetUnit_reads (s : State) : (s.resetUnit).reads = s.reads := rfl

/-! ### `State.withFetchWord` -/

@[simp] theorem State.withFetchWord_cmd (s : State) (nbits w : Nat) : (s.withFetchWord nbits w).cmd = s.cmd := rfl
@[simp] theorem State.withFetchWord_opnd (s : State) (nbits w : Nat) : (s.withFetchWord nbits w).opnd = s.opnd := rfl
@[simp] theorem State.withFetchWord_result (s : State) (nbits w : Nat) : (s.withFetchWord nbits w).result = s.result :=
    rfl
@[simp] theorem State.withFetchWord_status (s : State) (nbits w : Nat) : (s.withFetchWord nbits w).status = s.status :=
    rfl
@[simp] theorem State.withFetchWord_pos (s : State) (nbits w : Nat) : (s.withFetchWord nbits w).pos = s.pos := rfl
@[simp] theorem State.withFetchWord_buf (s : State) (nbits w : Nat) : (s.withFetchWord nbits w).buf = s.buf := rfl
@[simp] theorem State.withFetchWord_str (s : State) (nbits w : Nat) : (s.withFetchWord nbits w).str = s.str := rfl
@[simp] theorem State.withFetchWord_pending (s : State) (nbits w : Nat) : (s.withFetchWord nbits w).pending = ⟨0, cmdWrite (BitVec.ofNat 32 (w % 2 ^ nbits))⟩ :: s.pending :=
    rfl
@[simp] theorem State.withFetchWord_reads (s : State) (nbits w : Nat) : (s.withFetchWord nbits w).reads = s.reads :=
    rfl

/-! ### `hostRead` -/

@[simp] theorem hostRead_cmd (host offset : Nat) (s : State) : (hostRead host offset s).cmd = s.cmd := rfl
@[simp] theorem hostRead_opnd (host offset : Nat) (s : State) : (hostRead host offset s).opnd = s.opnd := rfl
@[simp] theorem hostRead_result (host offset : Nat) (s : State) : (hostRead host offset s).result = s.result := rfl
@[simp] theorem hostRead_status (host offset : Nat) (s : State) : (hostRead host offset s).status = s.status := rfl
@[simp] theorem hostRead_pos (host offset : Nat) (s : State) : (hostRead host offset s).pos = s.pos := rfl
@[simp] theorem hostRead_buf (host offset : Nat) (s : State) : (hostRead host offset s).buf = s.buf := rfl
@[simp] theorem hostRead_str (host offset : Nat) (s : State) : (hostRead host offset s).str = s.str := rfl
@[simp] theorem hostRead_pending (host offset : Nat) (s : State) : (hostRead host offset s).pending = s.pending := rfl
@[simp] theorem hostRead_reads (host offset : Nat) (s : State) :
    (hostRead host offset s).reads = s.reads ++ [⟨host, offset, s.readReg (regAt offset)⟩] := rfl

end Sys2Proof.Machine
end

