-- ==== Sys2Proof/Laws/Ops.lean ====
section
/-! SUPPORT. What each shared operation can do, said once: the window check, the two read primitives, the ends of a command
and byte order. -/

namespace Sys2Proof.Machine

/-! ### The window check (R63) -/

theorem windowCheck_of_legal {W p l : Nat} (hl : 1 ≤ l) (hp : p + l ≤ W) : windowCheck W p l = .ok () := by
  unfold windowCheck
  rw [if_neg (by omega)]

theorem windowCheck_of_illegal {W p l : Nat} (h : l = 0 ∨ W < p + l) : windowCheck W p l = .error .rangeError := by
  unfold windowCheck
  rw [if_pos h]

/-! ### The read primitives (R36, R37) -/

theorem State.bufRead_of_le {s : State} {a n : Nat} (h : a + n ≤ s.buf.len.toNat) :
    s.bufRead a n = .ok fun k => s.buf.byteAt (a + k) := by
  unfold State.bufRead
  rw [if_neg (by omega)]

theorem State.bufRead_of_lt {s : State} {a n : Nat} (h : s.buf.len.toNat < a + n) :
    s.bufRead a n = .error .rangeError := by
  unfold State.bufRead
  rw [if_pos h]

theorem State.strRead_of_le {s : State} {a n : Nat} (h : a + n ≤ s.str.len.toNat) :
    s.strRead a n = .ok fun k => s.str.byteAt (a + k) := by
  unfold State.strRead
  rw [if_neg (by omega)]

theorem State.strRead_of_lt {s : State} {a n : Nat} (h : s.str.len.toNat < a + n) :
    s.strRead a n = .error .endOfSource := by
  unfold State.strRead
  rw [if_pos h]

/-! ### A command's pseudocode, top to bottom (R11) -/

@[simp] theorem except_ok_bind {α β : Type} (a : α) (f : α → Except ErrorKind β) : (Except.ok a >>= f) = f a := rfl

@[simp] theorem except_error_bind {α β : Type} (e : ErrorKind) (f : α → Except ErrorKind β) :
    ((Except.error e : Except ErrorKind α) >>= f) = .error e := rfl

@[simp] theorem except_pure {α : Type} (a : α) : (pure a : Except ErrorKind α) = .ok a := rfl

/-! ### The ends of a command (R77, R89, R90) -/

@[simp] theorem State.deliver_ok (s : State) (k : ResultKind) (v : Word) :
    s.deliver k (.ok v) = .next (s.complete k v) := rfl

@[simp] theorem State.deliver_error (s : State) (k : ResultKind) (e : ErrorKind) :
    s.deliver k (.error e) = .next (s.raise e) := rfl

@[simp] theorem State.deliverConsuming_ok (s : State) (n : Nat) (k : ResultKind) (v : Word) :
    s.deliverConsuming n k (.ok v) = .next ((s.advance n).complete k v) := rfl

@[simp] theorem State.deliverConsuming_error (s : State) (n : Nat) (k : ResultKind) (e : ErrorKind) :
    s.deliverConsuming n k (.error e) = .next (s.raise e) := rfl

/-- A command that leaves POS alone ends in exactly one of two ways. -/
theorem State.deliver_cases {s t : State} {k : ResultKind} {r : Except ErrorKind Word} (h : s.deliver k r = .next t) :
    (∃ v, r = .ok v ∧ t = s.complete k v) ∨ (∃ e, r = .error e ∧ t = s.raise e) := by
  cases r with
  | ok v => exact .inl ⟨v, rfl, (Host.Outcome.next.inj h).symm⟩
  | error e => exact .inr ⟨e, rfl, (Host.Outcome.next.inj h).symm⟩

/-- A consuming command ends in exactly one of two ways. -/
theorem State.deliverConsuming_cases {s t : State} {n : Nat} {k : ResultKind} {r : Except ErrorKind Word}
    (h : s.deliverConsuming n k r = .next t) :
    (∃ v, r = .ok v ∧ t = (s.advance n).complete k v) ∨ (∃ e, r = .error e ∧ t = s.raise e) := by
  cases r with
  | ok v => exact .inl ⟨v, rfl, (Host.Outcome.next.inj h).symm⟩
  | error e => exact .inr ⟨e, rfl, (Host.Outcome.next.inj h).symm⟩

/-- `Advance(n)` is exact while the bytes it passes exist (R38). -/
theorem State.advance_pos_toNat {s : State} {n : Nat} (h : s.pos.toNat + n ≤ s.str.len.toNat) :
    (s.advance n).pos.toNat = s.pos.toNat + n := by
  have hlen := s.str.len.isLt
  simp only [State.advance_pos, BitVec.toNat_add, BitVec.toNat_ofNat]
  omega

/-! ### Byte order (R39, R41) -/

theorem be16_toNat (b0 b1 : Byte) : (be16 b0 b1).toNat = b0.toNat * 256 + b1.toNat := by
  have h := b1.isLt
  rw [be16, BitVec.toNat_append, Nat.shiftLeft_eq, Nat.mul_comm, ← Nat.two_pow_add_eq_or_of_lt h]

end Sys2Proof.Machine
end

