-- ==== Sys2Proof/Laws/PerInstr.lean ====
section
/-! SUPPORT. For every command as it is written: the word the encoder makes of a well-formed command is one of the words of
that command's row in 30_encoding.md R54. -/

namespace Sys2Proof.Laws

/-- R54's match and mask of a command's row. -/
def rowOf : Instr → Word × Word
  | .brdbits _ _ => (0x10000000, 0xF801FFFF)
  | .xbits _ _ => (0x20000000, 0xF801FFFF)
  | .brdu16bits _ _ => (0x30000000, 0xF801FFFF)
  | .brdu16 => (0x40000000, 0xFFFFFFFF)
  | .brdipv4 => (0x50000000, 0xFFFFFFFF)
  | .speek => (0x60000000, 0xFFFFFFFF)
  | .speekbits _ _ => (0x70000000, 0xF801FFFF)
  | .sconsumebits _ _ => (0x78000000, 0xF801FFFF)
  | .srdu16 => (0x80000000, 0xFFFFFFFF)
  | .srdu16bits _ _ => (0x90000000, 0xF801FFFF)
  | .srdipv4 => (0xA0000000, 0xFFFFFFFF)

/-- The window fields of a well-formed command stay inside bits 26:17. -/
theorem window_bits_masked {p l : Nat} (hp : p < 32) (hl : l < 32) :
    (BitVec.ofNat 32 p <<< 22) &&& 0xF801FFFF#32 = 0 ∧ (BitVec.ofNat 32 l <<< 17) &&& 0xF801FFFF#32 = 0 := by
  have h : ∀ x : Fin 32, (BitVec.ofNat 32 x <<< 22) &&& 0xF801FFFF#32 = 0 ∧
      (BitVec.ofNat 32 x <<< 17) &&& 0xF801FFFF#32 = 0 := by decide
  exact ⟨(h ⟨p, hp⟩).1, (h ⟨l, hl⟩).2⟩

theorem commandWord_masked {op adv p l : Nat} (hp : p < 32) (hl : l < 32) :
    commandWord op adv p l &&& 0xF801FFFF#32 = commandWord op adv 0 0 &&& 0xF801FFFF#32 := by
  obtain ⟨h1, h2⟩ := window_bits_masked hp hl
  simp only [commandWord, BitVec.and_or_distrib_right, h1, h2]
  simp

theorem fields_fit {p l : Nat} (h : (bposFits p && blenFits l) = true) : p < 32 ∧ l < 32 := by
  simpa [bposFits, blenFits, Config.bposW, Config.blenW] using h

namespace EncodeHitsRow

/-- The encoded word of a well-formed command is a word of its row. -/
def Statement (i : Instr) : Prop := i.wf = true → encode i &&& (rowOf i).2 = (rowOf i).1

theorem brdbits (p l : Nat) : Statement (.brdbits p l) := fun h =>
  commandWord_masked (fields_fit h).1 (fields_fit h).2
theorem xbits (p l : Nat) : Statement (.xbits p l) := fun h =>
  commandWord_masked (fields_fit h).1 (fields_fit h).2
theorem brdu16bits (p l : Nat) : Statement (.brdu16bits p l) := fun h =>
  commandWord_masked (fields_fit h).1 (fields_fit h).2
theorem brdu16 : Statement .brdu16 := fun _ => rfl
theorem brdipv4 : Statement .brdipv4 := fun _ => rfl
theorem speek : Statement .speek := fun _ => rfl
theorem speekbits (p l : Nat) : Statement (.speekbits p l) := fun h =>
  commandWord_masked (fields_fit h).1 (fields_fit h).2
theorem sconsumebits (p l : Nat) : Statement (.sconsumebits p l) := fun h =>
  commandWord_masked (fields_fit h).1 (fields_fit h).2
theorem srdu16 : Statement .srdu16 := fun _ => rfl
theorem srdu16bits (p l : Nat) : Statement (.srdu16bits p l) := fun h =>
  commandWord_masked (fields_fit h).1 (fields_fit h).2
theorem srdipv4 : Statement .srdipv4 := fun _ => rfl

end EncodeHitsRow

end Sys2Proof.Laws
end

