-- ==== Sys2Proof/Laws/Port.lean ====
section
/-! SUPPORT. What a command, a host action and a step can do, said once. -/

namespace Sys2Proof.Machine

/-! ### Commands -/

/-- Every command ends through `deliver`, or, where 20_memory.md R43 gives it a POS change, through `deliverConsuming` with
that change. -/
theorem exec_ends (i : Instr) (s : State) :
    (posChange i = 0 ∧ ∃ k r, exec i s = s.deliver k r) ∨
      (0 < posChange i ∧ ∃ k r, exec i s = s.deliverConsuming (posChange i) k r) := by
  cases i with
  | brdbits p l => exact .inl ⟨rfl, _, _, rfl⟩
  | xbits p l => exact .inl ⟨rfl, _, _, rfl⟩
  | brdu16bits p l => exact .inl ⟨rfl, _, _, rfl⟩
  | brdu16 => exact .inl ⟨rfl, _, _, rfl⟩
  | brdipv4 => exact .inl ⟨rfl, _, _, rfl⟩
  | speek => exact .inl ⟨rfl, _, _, rfl⟩
  | speekbits p l => exact .inl ⟨rfl, _, _, rfl⟩
  | sconsumebits p l => exact .inr ⟨Nat.one_pos, _, _, rfl⟩
  | srdu16 => exact .inr ⟨Nat.two_pos, _, _, rfl⟩
  | srdu16bits p l => exact .inr ⟨Nat.two_pos, _, _, rfl⟩
  | srdipv4 => exact .inr ⟨Nat.succ_pos 3, _, _, rfl⟩

/-- A command always completes or raises: it never stops the machine. -/
theorem exec_next (i : Instr) (s : State) : ∃ t, exec i s = .next t := by
  obtain ⟨-, k, r, h⟩ | ⟨-, k, r, h⟩ := exec_ends i s <;> cases r <;> exact ⟨_, h⟩

/-- The states a command can end in. -/
theorem exec_cases {i : Instr} {s t : State} (h : exec i s = .next t) :
    (∃ e, t = s.raise e) ∨ (posChange i = 0 ∧ ∃ k v, t = s.complete k v) ∨
      (0 < posChange i ∧ ∃ k v, t = (s.advance (posChange i)).complete k v) := by
  obtain ⟨hp, k, r, hr⟩ | ⟨hp, k, r, hr⟩ := exec_ends i s
  · obtain ⟨v, -, ht⟩ | ⟨e, -, ht⟩ := State.deliver_cases (hr ▸ h)
    · exact .inr (.inl ⟨hp, k, v, ht⟩)
    · exact .inl ⟨e, ht⟩
  · obtain ⟨v, -, ht⟩ | ⟨e, -, ht⟩ := State.deliverConsuming_cases (hr ▸ h)
    · exact .inr (.inr ⟨hp, k, v, ht⟩)
    · exact .inl ⟨e, ht⟩

theorem executeCommand_of_ok {w : Word} {i : Instr} (h : decode w = .ok i) (s : State) :
    executeCommand w s = exec i { s with cmd := w } := by
  unfold executeCommand
  rw [h]

theorem executeCommand_of_error {w : Word} {x : IllegalWord} (h : decode w = .error x) (s : State) :
    executeCommand w s = .next (State.raise { s with cmd := w } .illegalCommand) := by
  unfold executeCommand
  rw [h]

/-! ### Host actions -/

theorem insideInterface_iff {width offset : Nat} :
    insideInterface width offset = true ↔ width = 32 ∧ offset % 4 = 0 ∧ offset ≤ 0xFC := by
  simp [insideInterface, and_assoc]

/-- A host write changes the unit only at CMD, OPND and POS (10_state.md R16). -/
theorem hostWrite_cases {offset : Nat} {v : Word} {s t : State} (h : hostWrite offset v s = .next t) :
    (regAt offset = .cmd ∧ executeCommand v s = .next t) ∨ (regAt offset = .opnd ∧ t = { s with opnd := v }) ∨
      (regAt offset = .pos ∧ t = { s with pos := v }) ∨
      (regAt offset ≠ .cmd ∧ regAt offset ≠ .opnd ∧ regAt offset ≠ .pos ∧ t = s) := by
  unfold hostWrite at h
  cases hr : regAt offset <;> rw [hr] at h <;> first | exact .inl ⟨rfl, h⟩ | (cases h; simp)

/-- A host write answers a next state. -/
theorem hostWrite_next (offset : Nat) (v : Word) (s : State) : ∃ t, hostWrite offset v s = .next t := by
  unfold hostWrite
  cases regAt offset with
  | cmd =>
    cases hd : decode v with
    | ok i => exact (executeCommand_of_ok hd s) ▸ exec_next i _
    | error x => exact ⟨_, executeCommand_of_error hd s⟩
  | _ => exact ⟨_, rfl⟩

/-- The states a host action can lead to. -/
theorem perform_cases {e : HostEvent} {s t : State} (h : perform e s = .next t) :
    (∃ offset v, e.action = .write 32 offset v ∧ hostWrite offset v s = .next t) ∨
      (∃ offset, e.action = .read 32 offset ∧ t = hostRead e.host offset s) ∨
      (∃ bytes, e.action = .attachBuf bytes ∧ bytes.length ≤ Config.maxSrcLen ∧
        t = { s with buf := Memory.ofBytes bytes }) ∨
      (∃ bytes, e.action = .attachStr bytes ∧ bytes.length ≤ Config.maxSrcLen ∧
        t = { s with str := Memory.ofBytes bytes }) ∨
      (e.action = .reset ∧ t = s.resetUnit) := by
  obtain ⟨host, action⟩ := e
  cases action with
  | write width offset v =>
    simp only [perform] at h
    split at h
    · rename_i hin
      obtain ⟨rfl, -⟩ := insideInterface_iff.1 hin
      exact .inl ⟨offset, v, rfl, h⟩
    · cases h
  | read width offset =>
    simp only [perform] at h
    split at h
    · rename_i hin
      obtain ⟨rfl, -⟩ := insideInterface_iff.1 hin
      exact .inr (.inl ⟨offset, rfl, (Host.Outcome.next.inj h).symm⟩)
    · cases h
  | attachBuf bytes =>
    simp only [perform, attachBuf] at h
    split at h
    · exact .inr (.inr (.inl ⟨bytes, rfl, ‹_›, (Host.Outcome.next.inj h).symm⟩))
    · cases h
  | attachStr bytes =>
    simp only [perform, attachStr] at h
    split at h
    · exact .inr (.inr (.inr (.inl ⟨bytes, rfl, ‹_›, (Host.Outcome.next.inj h).symm⟩)))
    · cases h
  | reset => exact .inr (.inr (.inr (.inr ⟨rfl, (Host.Outcome.next.inj h).symm⟩)))

/-! ### Steps -/

/-- With nothing pending the unit waits. -/
theorem step_idle {s : State} (h : s.pending = []) : step s = .next s := by
  unfold step
  rw [h]

/-- Otherwise the next action is performed. -/
theorem step_pending {s : State} {e : HostEvent} {rest : List HostEvent} (h : s.pending = e :: rest) :
    step s = perform e { s with pending := rest } := by
  unfold step
  rw [h]

end Sys2Proof.Machine
end

