-- ==== Sys2Proof/Tests/Slice0.lean ====
section
/-! SUPPORT. Tests from the spec's own vectors (95_test_vectors.md) and the witnesses of the statements' hypotheses. -/

namespace Sys2Proof.Tests

open Sys2Proof Sys2Proof.Machine

/-- A machine after reset with these sources attached and these values in OPND, POS and RESULT. -/
def st (buf str : List Byte) (opnd pos : Word) (result : Word := 0) : State :=
  { State.reset with buf := Memory.ofBytes buf, str := Memory.ofBytes str, opnd := opnd, pos := pos, result := result }

/-- RESULT, STATUS and POS of a next state. -/
def view : Host.Outcome State Fault Refusal → Option (Word × Word × Word)
  | .next t => some (t.result, t.status, t.pos)
  | .fault _ => none
  | .refused _ => none

/-- The next state, if there is one. -/
def nextOf : Host.Outcome State Fault Refusal → Option State
  | .next t => some t
  | .fault _ => none
  | .refused _ => none

/-- The refusal, if there is one. -/
def refusalOf : Host.Outcome State Fault Refusal → Option Refusal
  | .next _ => none
  | .fault _ => none
  | .refused r => some r

/-- The command a word decodes to. -/
def decoded (w : Word) : Option Instr :=
  match decode w with
  | .ok i => some i
  | .error _ => none

/-- Why a word is illegal. -/
def illegal (w : Word) : Option IllegalWord :=
  match decode w with
  | .ok _ => none
  | .error x => some x

/-! ### WellFormed: an ill-formed term for each check -/

theorem test_wf_refuses_bpos_32 : (Instr.brdbits 32 1).wf = false ∧ (Instr.xbits 32 1).wf = false ∧
    (Instr.brdu16bits 32 1).wf = false ∧ (Instr.speekbits 32 1).wf = false ∧ (Instr.sconsumebits 32 1).wf = false ∧
    (Instr.srdu16bits 32 1).wf = false := by decide

theorem test_wf_refuses_blen_32 : (Instr.brdbits 1 32).wf = false ∧ (Instr.xbits 1 32).wf = false ∧
    (Instr.brdu16bits 1 32).wf = false ∧ (Instr.speekbits 1 32).wf = false ∧ (Instr.sconsumebits 1 32).wf = false ∧
    (Instr.srdu16bits 1 32).wf = false := by decide

theorem test_wf_accepts_31_31 : (Instr.brdbits 31 31).wf = true ∧ Instr.srdipv4.wf = true := by decide

/-! ### Decoding: every constructor from a word written out by 30_encoding.md R50, `oooo a ppppp lllll 0...` -/

theorem test_decode_brdbits : decoded 0b00010001000010000000000000000000 = some (.brdbits 4 4) := by decide
theorem test_decode_xbits : decoded 0b00100000110001000000000000000000 = some (.xbits 3 2) := by decide
theorem test_decode_brdu16bits : decoded 0b00110001110001000000000000000000 = some (.brdu16bits 7 2) := by decide
theorem test_decode_brdu16 : decoded 0b01000000000000000000000000000000 = some .brdu16 := by decide
theorem test_decode_brdipv4 : decoded 0b01010000000000000000000000000000 = some .brdipv4 := by decide
theorem test_decode_speek : decoded 0b01100000000000000000000000000000 = some .speek := by decide
theorem test_decode_speekbits : decoded 0b01110010010000100000000000000000 = some (.speekbits 9 1) := by decide
theorem test_decode_sconsumebits : decoded 0b01111111111111100000000000000000 = some (.sconsumebits 31 31) := by decide
theorem test_decode_srdu16 : decoded 0b10000000000000000000000000000000 = some .srdu16 := by decide
theorem test_decode_srdu16bits : decoded 0b10010000110110100000000000000000 = some (.srdu16bits 3 13) := by decide
theorem test_decode_srdipv4 : decoded 0b10100000000000000000000000000000 = some .srdipv4 := by decide

/-- 95_test_vectors.md section 2.6. -/
theorem test_decode_illegal : illegal 0x00000000 = some .reservedOp ∧ illegal 0xB0000000 = some .reservedOp ∧
    illegal 0xFFFFFFFF = some .reservedOp ∧ illegal 0x48000000 = some .advOffReadBits ∧
    illegal 0x18080000 = some .advOffReadBits ∧ illegal 0x40000001 = some .reservedBits ∧
    illegal 0x10000001 = some .reservedBits ∧ illegal 0x40400000 = some .windowOnWindowless ∧
    illegal 0x60020000 = some .windowOnWindowless ∧ illegal 0xA0010000 = some .reservedBits := by decide

theorem test_encode_vectors : encode (.srdu16bits 3 13) = 0x90DA0000 ∧ encode (.sconsumebits 5 4) = 0x79480000 ∧
    encode (.brdu16bits 16 1) = 0x34020000 ∧ encode .srdipv4 = 0xA0000000 := by decide

theorem test_decodeTableWord : decodeTableWord 32 0x78100000 = some (.sconsumebits 0 8) ∧
    decodeTableWord 32 0xB0000000 = none ∧ decodeTableWord 40 0x40000000 = none ∧
    decodeTableWord 16 0x40000000 = none := by decide

theorem test_withFetchWord : view (step ((st [0xAB, 0xCD] [] 0 0).withFetchWord 32 0x31100000)) =
    some (0xBC, 0x210, 0) := by decide

/-! ### Commands: the vectors of 95_test_vectors.md sections 1 and 2 -/

theorem test_xbits_vector : view (exec (.xbits 3 2) (st [] [] 0x12345AB0 0)) = some (0x02, 0x110, 0) := by decide
theorem test_xbits_window_error : view (exec (.xbits 5 4) (st [] [] 0xB0 0 7)) = some (7, 0x001, 0) := by decide
theorem test_brdbits_last_byte : view (exec (.brdbits 0 8) (st [0xAB, 0xCD, 0xEF] [] 2 0)) = some (0xEF, 0x110, 0) := by
  decide
theorem test_brdbits_no_wrap : view (exec (.brdbits 0 1) (st [0xAB, 0xCD, 0xEF] [] 0xFFFFFFFF 0 9)) =
    some (9, 0x001, 0) := by decide
theorem test_brdu16bits_crosses : view (exec (.brdu16bits 4 8) (st [0xAB, 0xCD, 0xEF] [] 1 0)) =
    some (0xDE, 0x210, 0) := by decide
theorem test_brdu16bits_both_errors : view (exec (.brdu16bits 0 17) (st [0x01] [] 0 0 5)) = some (5, 0x001, 0) := by
  decide
theorem test_brdu16_odd_offset : view (exec .brdu16 (st [0x00, 0x12, 0x34] [] 1 0)) = some (0x1234, 0x210, 0) := by decide
theorem test_brdu16_short : view (exec .brdu16 (st [0xAB, 0xCD, 0xEF] [] 2 0 6)) = some (6, 0x001, 0) := by decide
theorem test_brdipv4_unaligned : view (exec .brdipv4 (st [0, 192, 168, 1, 2] [] 1 0)) = some (0xC0A80102, 0x310, 0) := by
  decide
theorem test_brdipv4_short : view (exec .brdipv4 (st [192, 168, 1] [] 0 0 8)) = some (8, 0x001, 0) := by decide
theorem test_speek_last_byte : view (exec .speek (st [] [0xB0, 0x12] 0 1)) = some (0x12, 0x110, 1) := by decide
theorem test_speek_past_end : view (exec .speek (st [] [0x5A] 0 0xFFFFFFFF 3)) = some (3, 0x002, 0xFFFFFFFF) := by decide
theorem test_speekbits_vector : view (exec (.speekbits 0 3) (st [] [0xB0] 0 0)) = some (0x05, 0x110, 0) := by decide
theorem test_speekbits_priority : view (exec (.speekbits 9 1) (st [] [] 0 0 4)) = some (4, 0x001, 0) := by decide
theorem test_sconsumebits_vector : view (exec (.sconsumebits 3 2) (st [] [0xB0] 0 0)) = some (0x02, 0x110, 1) := by decide
theorem test_sconsumebits_zero_length : view (exec (.sconsumebits 0 0) (st [] [0xB0] 0 0 4)) = some (4, 0x001, 0) := by
  decide
theorem test_srdu16_vector : view (exec .srdu16 (st [] [0x12, 0x34] 0 0)) = some (0x1234, 0x210, 2) := by decide
theorem test_srdu16_one_byte_left : view (exec .srdu16 (st [] [0x12, 0x34, 0x56] 0 2 1)) = some (1, 0x002, 2) := by decide
theorem test_srdu16bits_vector : view (exec (.srdu16bits 0 3) (st [] [0x40, 0x00] 0 0)) = some (0x02, 0x210, 2) := by
  decide
theorem test_srdu16bits_no_data : view (exec (.srdu16bits 4 8) (st [] [] 0 0 2)) = some (2, 0x002, 0) := by decide
theorem test_srdipv4_vector : view (exec .srdipv4 (st [] [192, 168, 1, 1] 0 0)) = some (0xC0A80101, 0x310, 4) := by decide
theorem test_srdipv4_short : view (exec .srdipv4 (st [] [192, 168, 1] 0 0 2)) = some (2, 0x002, 0) := by decide

/-! ### The port and reset: 95_test_vectors.md section 2.7 -/

theorem test_illegal_word : view (executeCommand 0x40000001 (st [1, 2] [] 0 0 0xDE)) = some (0xDE, 0x003, 0) := by decide

theorem test_read_only_write_ignored : nextOf (hostWrite 0x08 0x1234 (st [1] [2] 3 4)) = some (st [1] [2] 3 4) ∧
    nextOf (hostWrite 0x14 7 (st [1] [2] 3 4)) = some (st [1] [2] 3 4) := by decide

theorem test_reads : (st [1, 2, 3] [9] 0 0).readReg (regAt 0x14) = 3 ∧ (st [1, 2, 3] [9] 0 0).readReg (regAt 0x18) = 1 ∧
    (st [1] [] 5 6).readReg (regAt 0x1C) = 0 := by decide

theorem test_status_reserved_bits_read_0 : ({ State.reset with status := 0xFFFFFFFF } : State).readReg .status = 0x31F := by
  decide

theorem test_16_bit_access_refused : refusalOf (perform ⟨0, .read 16 0x02⟩ State.reset) =
    some (.outsideInterface 16 0x02) := by decide

theorem test_reset_keeps_sources : nextOf (perform ⟨0, .reset⟩ (st [1, 0, 3] [4] 5 6 7)) = some (st [1, 0, 3] [4] 0 0) := by
  decide

theorem test_memory_wf : (Memory.ofBytes [0, 7, 0, 9]).wf = true ∧ (Memory.ofBytes [0, 7, 0, 9]).cells = [(1, 7), (3, 9)] ∧
    Memory.wf ⟨4, [(1, 0)]⟩ = false ∧ Memory.wf ⟨4, [(3, 1), (2, 1)]⟩ = false ∧ Memory.wf ⟨4, [(4, 1)]⟩ = false := by
  decide

theorem test_memory_read : (Memory.ofBytes [0, 7]).readByte 0 = some 0 ∧ (Memory.ofBytes [0, 7]).readByte 1 = some 7 ∧
    (Memory.ofBytes [0, 7]).readByte 2 = none := by decide

/-! ### Witnesses: states and operands that meet each statement's hypotheses, clause by clause, at the edges -/

theorem witness_DecodeOfEncodeIsIdentity : (Instr.srdu16bits 31 31).wf = true ∧ (Instr.sconsumebits 0 0).wf = true := by
  decide

theorem witness_EncodeOfDecodeIsIdentity : decode 0x7FFE0000 = .ok (.sconsumebits 31 31) := rfl

theorem witness_DecoderFollowsMatchTable_row : ∃ r ∈ decodeRows, (0x78100000 : Word) &&& r.mask = r.pattern := by decide

theorem witness_DecoderFollowsMatchTable_none : ∀ r ∈ decodeRows, (0xB0000000 : Word) &&& r.mask ≠ r.pattern := by decide

theorem witness_MalformedWords_op : (0x00000000 : Word).extractLsb' 28 4 = 0 ∧
    0xB ≤ ((0xB0000000 : Word).extractLsb' 28 4).toNat ∧ 0xB ≤ ((0xFFFFFFFF : Word).extractLsb' 28 4).toNat := by decide

theorem witness_MalformedWords_adv : (0x48000000 : Word).getLsbD 27 = true ∧ (0x48000000 : Word).extractLsb' 28 4 ≠ 7 := by
  decide

theorem witness_MalformedWords_window :
    ((0xA0020000 : Word).extractLsb' 28 4).toNat ∈ [4, 5, 6, 8, 0xA] ∧ (0xA0020000 : Word).extractLsb' 17 5 ≠ 0 := by decide

theorem witness_MalformedWords_rsvd : (0x10000001 : Word).extractLsb' 0 17 ≠ 0 ∧
    (0xA0010000 : Word).extractLsb' 0 17 ≠ 0 := by decide

theorem witness_IllegalCommandHasFourCauses : decode 0xB0000000 = .error .reservedOp ∧
    decode 0xA0000000 = .ok .srdipv4 ∧ view (executeCommand 0xA0000000 State.reset) = some (0, 2, 0) :=
  ⟨rfl, rfl, by decide⟩

theorem witness_PseudoInstructionsExpand : (st [7] [] 0 0).opnd.toNat + 1 ≤ (st [7] [] 0 0).buf.len.toNat ∧
    (st [] [7] 0 0).pos.toNat + 1 ≤ (st [] [7] 0 0).str.len.toNat := by decide

theorem witness_AssemblerEncodesLines : (31 : Nat) ≤ 31 ∧ (31 : Int) < 32 ∧
    assemble (.xbits 31 31) = some (.write 32 0 0x27FE0000) ∧ assemble (.xbits 32 0) = none ∧
    assemble (.xbits 0 (-1)) = none := by decide

theorem witness_WindowCheck : windowCheck 8 7 1 = .ok () ∧ windowCheck 16 15 1 = .ok () ∧
    windowCheck 8 8 1 = .error .rangeError ∧ windowCheck 16 0 17 = .error .rangeError ∧
    windowCheck 8 0 0 = .error .rangeError := ⟨rfl, rfl, rfl, rfl, rfl⟩

theorem witness_ExtractBitsIsTheMsbZeroSlice : 1 ≤ 1 ∧ 7 + 1 ≤ 8 ∧ extractBits 8 0x01 7 1 = 1 ∧ 0 + 16 ≤ 16 ∧
    extractBits 16 0xABCD 0 16 = 0xABCD ∧ 0 < 1 := by decide

theorem witness_ExtractBitsCornerCases : 1 ≤ 4 ∧ 4 + 4 = 8 ∧ extractBits 8 0xA5 4 4 = 0x5 ∧ 4 ≤ 8 ∧
    extractBits 8 0xA5 0 4 = 0xA ∧ 7 + 1 ≤ 8 ∧ 8 ≤ 8 ∧ 31 ≤ 31 ∧ 8 < 31 + 31 := by decide

theorem witness_ReadPrimitives : 1 + 2 ≤ (st [1, 2, 3] [4, 5] 0 0).buf.len.toNat ∧
    2 + 2 > (st [1, 2, 3] [4, 5] 0 0).buf.len.toNat ∧ 0 + 2 ≤ (st [1, 2, 3] [4, 5] 0 0).str.len.toNat ∧
    1 + 2 > (st [1, 2, 3] [4, 5] 0 0).str.len.toNat := by decide

theorem witness_Ipv4OctetsAreVerbatim :
    (st [0, 1, 2, 3, 4] [] 1 0).opnd.toNat + 4 ≤ (st [0, 1, 2, 3, 4] [] 1 0).buf.len.toNat ∧
    (st [] [1, 2, 3, 4] 0 0).pos.toNat + 4 ≤ (st [] [1, 2, 3, 4] 0 0).str.len.toNat := by decide

/-- XBITS and the byte-mode windows: the last legal window, and the first illegal ones. -/
theorem witness_byte_windows : 31 < 32 ∧ 1 ≤ 1 ∧ 7 + 1 ≤ 8 ∧ 0 + 9 > 8 ∧ 8 + 1 > 8 := by decide

/-- The ushort-mode windows. -/
theorem witness_ushort_windows : 1 ≤ 16 ∧ 0 + 16 ≤ 16 ∧ 16 + 1 > 16 := by decide

/-- The buffer commands' bounds: the last offset with 1, 2 and 4 bytes, and the first without. -/
theorem witness_buffer_bounds :
    (st [1, 2, 3, 4] [] 3 0).opnd.toNat + 1 ≤ (st [1, 2, 3, 4] [] 3 0).buf.len.toNat ∧
    (st [1, 2, 3, 4] [] 4 0).opnd.toNat + 1 > (st [1, 2, 3, 4] [] 4 0).buf.len.toNat ∧
    (st [1, 2, 3, 4] [] 2 0).opnd.toNat + 2 ≤ (st [1, 2, 3, 4] [] 2 0).buf.len.toNat ∧
    (st [1, 2, 3, 4] [] 3 0).opnd.toNat + 2 > (st [1, 2, 3, 4] [] 3 0).buf.len.toNat ∧
    (st [1, 2, 3, 4] [] 0 0).opnd.toNat + 4 ≤ (st [1, 2, 3, 4] [] 0 0).buf.len.toNat ∧
    (st [1, 2, 3, 4] [] 1 0).opnd.toNat + 4 > (st [1, 2, 3, 4] [] 1 0).buf.len.toNat := by decide

/-- The stream commands' bounds. -/
theorem witness_stream_bounds :
    (st [] [1, 2, 3, 4] 0 3).pos.toNat + 1 ≤ (st [] [1, 2, 3, 4] 0 3).str.len.toNat ∧
    (st [] [1, 2, 3, 4] 0 4).pos.toNat + 1 > (st [] [1, 2, 3, 4] 0 4).str.len.toNat ∧
    (st [] [1, 2, 3, 4] 0 2).pos.toNat + 2 ≤ (st [] [1, 2, 3, 4] 0 2).str.len.toNat ∧
    (st [] [1, 2, 3, 4] 0 3).pos.toNat + 2 > (st [] [1, 2, 3, 4] 0 3).str.len.toNat ∧
    (st [] [1, 2, 3, 4] 0 0).pos.toNat + 4 ≤ (st [] [1, 2, 3, 4] 0 0).str.len.toNat ∧
    (st [] [1, 2, 3, 4] 0 1).pos.toNat + 4 > (st [] [1, 2, 3, 4] 0 1).str.len.toNat := by decide

theorem witness_FirstApplicableError : windowLegal (.speekbits 9 1) = false ∧
    (windowLegal .brdu16 = true ∧ inBounds .brdu16 (st [1] [] 0 0) = false ∧ sourceUse .brdu16 = .buffer) ∧
    (windowLegal .srdu16 = true ∧ inBounds .srdu16 (st [] [1] 0 0) = false ∧ sourceUse .srdu16 = .stream) ∧
    (windowLegal (.srdu16bits 0 16) = true ∧ inBounds (.srdu16bits 0 16) (st [] [1, 2] 0 0) = true) := by decide

theorem witness_FailingCommandWritesOnlyStatus :
    ((nextOf (executeCommand 0x78000000 (st [] [0xB0] 0 0 4))).map fun t => (t.cmd, t.result, statusErr t.status, t.pos)) =
      some (0x78000000, 4, 1, 0) := by decide

theorem witness_CommandRewritesStatusFields :
    ((nextOf (executeCommand 0x50000000 (st [1, 2, 3, 4] [] 0 0))).map fun t =>
      (statusErr t.status, statusValid t.status, (statusRkind t.status).toNat, kindCode .brdipv4)) =
      some (0, true, 3, 3) ∧
    ((nextOf (executeCommand 0xB0000000 State.reset)).map fun t => (statusErr t.status, statusRkind t.status)) =
      some (3, 0) := by decide

theorem witness_ValidMeansNoError :
    State.reset.status = 0 ∧
    (∀ e ∈ ((State.reset.withFetchWord 32 0x20020000).pending.take 1), e.action ≠ .reset) ∧
    view (runSteps 1 (State.reset.withFetchWord 32 0x20020000)) = some (0, 0x110, 0) := by decide

theorem witness_UnattachedSources : (st [] [] 0xB0 0).buf.len = 0 ∧ (st [] [] 0xB0 0).str.len = 0 ∧
    sourceUse .brdipv4 = .buffer ∧ (sourceUse .speek = .stream ∧ windowLegal .speek = true) ∧
    (sourceUse (.speekbits 0 0) = .stream ∧ windowLegal (.speekbits 0 0) = false) ∧ 1 ≤ 8 ∧ 0 + 8 ≤ 8 := by decide

theorem witness_BoundsNeverWrap : (sourceUse (.brdbits 0 1) = .buffer ∧ (st [1] [] 0xFFFFFFFF 0).opnd = 0xFFFFFFFF) ∧
    (sourceUse .brdu16 = .buffer ∧ view (exec .brdu16 (st [1, 2] [] 0 0)) = some (0x102, 0x210, 0)) ∧
    (sourceUse .srdipv4 = .stream ∧ view (exec .srdipv4 (st [] [1, 2, 3, 4] 0 0)) = some (0x01020304, 0x310, 4)) ∧
    statusErr 0x210 = 0 ∧ statusErr 0x310 = 0 := by decide

theorem witness_frames : (nextOf (exec (.speekbits 0 8) (st [] [9] 0 0))).isSome = true ∧
    (nextOf (exec .brdipv4 (st [] [9] 0 0))).isSome = true ∧
    view (exec (.sconsumebits 0 8) (st [] [9] 0 0)) = some (9, 0x110, 1) ∧
    view (exec .srdu16 (st [] [9] 0 0 3)) = some (3, 0x002, 0) ∧ statusErr 0x002 ≠ 0 := by decide

theorem witness_PosChanges : view (step { st [] [9] 0 0 with pending := [⟨0, .write 32 0x10 5⟩] }) = some (0, 0, 5) ∧
    view (step { st [] [9] 0 0 with pending := [⟨0, cmdWrite 0x78100000⟩] }) = some (9, 0x110, 1) ∧
    view (step { st [] [9] 0 3 with pending := [⟨0, .reset⟩] }) = some (0, 0, 0) := by decide

theorem witness_BufferCommandsAreStateless : sourceUse .brdu16 = .buffer ∧
    (st [1, 2] [5] 0 3 7).opnd = (st [1, 2] [] 0 0 9).opnd ∧ (st [1, 2] [5] 0 3 7).buf = (st [1, 2] [] 0 0 9).buf ∧
    view (exec .brdu16 (st [1, 2] [5] 0 3 7)) = some (0x102, 0x210, 3) ∧
    view (exec .brdu16 (st [1, 2] [] 0 0 9)) = some (0x102, 0x210, 0) ∧
    view (exec .brdu16 (st [1] [] 0 0 9)) = some (9, 0x001, 0) := by decide

theorem witness_OpndIsRead : sourceUse .speek = .stream ∧
    (0x12345AB0 : Word).extractLsb' 0 8 = (st [] [] 0xB0 0).opnd.extractLsb' 0 8 := by decide

/-- 95_test_vectors.md P4 rows 8-11: SRDIPV4 at POS = 3, a failing SPEEK at 7, then POS = 3 written back. The last clause is a
command that fails in the first state. -/
theorem witness_Rewind :
    sourceUse .srdipv4 = .stream ∧ sourceUse .srdu16 = .stream ∧
    nextOf (exec .srdipv4 (st [] [0xB0, 0x12, 0x34, 0xC0, 0xA8, 1, 1] 0 3 0x1234)) =
      some { st [] [0xB0, 0x12, 0x34, 0xC0, 0xA8, 1, 1] 0 7 0xC0A80101 with status := 0x310 } ∧
    ({ st [] [0xB0, 0x12, 0x34, 0xC0, 0xA8, 1, 1] 0 7 0xC0A80101 with status := 2 } : State).str =
      (st [] [0xB0, 0x12, 0x34, 0xC0, 0xA8, 1, 1] 0 3 0x1234).str ∧
    nextOf (exec .srdu16 (st [] [1, 2] 0 1)) = some { st [] [1, 2] 0 1 with status := 2 } := by decide

theorem witness_PeekIsCursorNeutral : (st [] [7] 0 0).pos.toNat < (st [] [7] 0 0).str.len.toNat ∧
    view (exec (.sconsumebits 0 8) (st [] [7] 0 0)) = some (7, 0x110, 1) ∧ statusErr 0x110 = 0 := by decide

theorem witness_StepRunsTheDecodedCommand :
    (State.reset.withFetchWord 32 0x60000000).pending = ⟨0, .write 32 0x00 0x60000000⟩ :: [] ∧
    decode 0x60000000 = .ok .speek ∧ decode 0x60020000 = .error .windowOnWindowless := ⟨rfl, rfl, rfl⟩

theorem witness_PortAccess : ({ State.reset with pending := [⟨1, .read 32 0xFC⟩] } : State).pending =
      ⟨1, .read 32 0xFC⟩ :: [] ∧ 0xFC % 4 = 0 ∧ 0xFC ≤ 0xFC ∧ 0x1C ≤ 0xFC ∧ ¬ (16 = 32 ∧ 0 % 4 = 0 ∧ 0 ≤ 0xFC) ∧
    ¬ (32 = 32 ∧ 2 % 4 = 0 ∧ 2 ≤ 0xFC) ∧ ¬ (32 = 32 ∧ 0x100 % 4 = 0 ∧ 0x100 ≤ 0xFC) := by decide

theorem witness_HostWritesOpndAndPos : view (step { State.reset with pending := [⟨0, .write 32 0x10 0xFFFFFFFF⟩] }) =
    some (0, 0, 0xFFFFFFFF) := by decide

theorem witness_AttachedBytesReadBack : ([0, 7] : List Byte).length ≤ 2 ^ 32 - 1 ∧
    ({ State.reset with pending := [⟨0, .attachStr [0, 7]⟩] } : State).pending = ⟨0, .attachStr [0, 7]⟩ :: [] := by decide

theorem witness_AttachedBytesReadBack_too_long : 2 ^ 32 - 1 < (List.replicate (2 ^ 32) (0 : Byte)).length := by
  rw [List.length_replicate]
  decide

theorem witness_ResetClearsRegisters : ({ State.reset with pending := [⟨0, .reset⟩] } : State).pending = ⟨0, .reset⟩ :: [] :=
  rfl

theorem witness_NextReadsSeeTheCommandsEffect : (nextOf (runSteps 4 { st [] [0x12, 0x34] 0 0 with pending :=
      [⟨0, cmdWrite 0x80000000⟩, ⟨0, .read 32 0x0C⟩, ⟨0, .read 32 0x08⟩, ⟨0, .read 32 0x10⟩] })).map State.reads =
    some [⟨0, 0x0C, 0x210⟩, ⟨0, 0x08, 0x1234⟩, ⟨0, 0x10, 2⟩] := by decide

theorem witness_StepKeepsTheInvariant : State.Inv (State.reset.withFetchWord 32 0x20100000) ∧
    view (step (State.reset.withFetchWord 32 0x20100000)) = some (0, 0x110, 0) :=
  ⟨⟨by decide, by decide, by decide, by decide, by decide, by decide⟩, by decide⟩

theorem witness_CanonicalSources : (Memory.ofBytes [0, 7]).wf = true ∧ Memory.wf ⟨2, [(1, 7)]⟩ = true ∧
    (Memory.ofBytes [0, 7]).len = (⟨2, [(1, 7)]⟩ : Memory).len ∧ Memory.ofBytes [0, 7] = ⟨2, [(1, 7)]⟩ := by decide

theorem witness_RunsInside : (State.reset.withFetchWord 32 0xFFFFFFFF).pendingInside = true ∧
    State.pendingInside { State.reset with pending := [⟨0, .attachBuf [1]⟩, ⟨1, .read 32 0xFC⟩, ⟨2, .reset⟩] } = true := by
  decide

theorem witness_ExclusiveCursor :
    (HostAction.inside (.write 32 0x04 9) = true ∧ HostAction.sparesCursor (.write 32 0x04 9) = true) ∧
    (HostAction.inside (cmdWrite 0x60000000) = true ∧ HostAction.sparesCursor (cmdWrite 0x60000000) = true) ∧
    HostAction.sparesCursor (.write 32 0x10 9) = false ∧ HostAction.sparesCursor (cmdWrite 0x80000000) = false ∧
    (nextOf (runSteps 3 { st [] [0xB0, 0x12] 0 0 with pending :=
        [⟨0, cmdWrite 0x60000000⟩, ⟨1, .write 32 0x04 9⟩, ⟨0, cmdWrite 0x78100000⟩] })).map
      (fun t => (t.result, t.pos)) = some (0xB0, 1) := by decide

/-- R109's warning: when another host moves POS in between, the consuming read does not see the peeked byte. -/
theorem test_interleaved_pos_write_breaks_the_peek :
    (nextOf (runSteps 3 { st [] [0xB0, 0x12] 0 0 with pending :=
        [⟨0, cmdWrite 0x60000000⟩, ⟨1, .write 32 0x10 1⟩, ⟨0, cmdWrite 0x78100000⟩] })).map
      (fun t => (t.result, t.pos)) = some (0x12, 2) := by decide

theorem witness_HostsReadInProgramOrder :
    Interleaves [[.read 32 0x08, .read 32 0x0C], [.read 32 0x10]]
      [⟨0, .read 32 0x08⟩, ⟨1, .read 32 0x10⟩, ⟨0, .read 32 0x0C⟩] ∧
    (nextOf (runSteps 3 { State.reset with pending :=
        [⟨0, .read 32 0x08⟩, ⟨1, .read 32 0x10⟩, ⟨0, .read 32 0x0C⟩] })).map State.reads =
      some [⟨0, 0x08, 0⟩, ⟨1, 0x10, 0⟩, ⟨0, 0x0C, 0⟩] := by
  refine ⟨?_, by decide⟩
  intro h
  match h with
  | 0 => rfl
  | 1 => rfl
  | n + 2 => simp

end Sys2Proof.Tests
end

section
/-! SUPPORT. No host action touches the list of actions still to come, an action of the interface is never refused, and so a
run over such actions takes them off the list one by one. -/

namespace Sys2Proof.Machine

/-! ### The pending list under a command, a host write and a host action -/

theorem exec_pending {i : Instr} {s t : State} (h : exec i s = .next t) : t.pending = s.pending := by
  obtain ⟨e, rfl⟩ | ⟨-, k, v, rfl⟩ | ⟨-, k, v, rfl⟩ := exec_cases h
  · exact State.raise_pending s e
  · exact State.complete_pending s k v
  · rw [State.complete_pending, State.advance_pending]

theorem executeCommand_pending {w : Word} {s t : State} (h : executeCommand w s = .next t) :
    t.pending = s.pending := by
  cases hd : decode w with
  | ok i => exact exec_pending (s := { s with cmd := w }) (executeCommand_of_ok hd s ▸ h)
  | error x =>
    cases (executeCommand_of_error hd s).symm.trans h
    rfl

theorem hostWrite_pending {offset : Nat} {v : Word} {s t : State} (h : hostWrite offset v s = .next t) :
    t.pending = s.pending := by
  obtain ⟨-, hcmd⟩ | ⟨-, rfl⟩ | ⟨-, rfl⟩ | ⟨-, -, -, rfl⟩ := hostWrite_cases h
  · exact executeCommand_pending hcmd
  all_goals rfl

theorem perform_pending {e : HostEvent} {s t : State} (h : perform e s = .next t) : t.pending = s.pending := by
  obtain ⟨offset, v, -, hw⟩ | ⟨offset, -, rfl⟩ | ⟨bytes, -, -, rfl⟩ | ⟨bytes, -, -, rfl⟩ | ⟨-, rfl⟩ := perform_cases h
  · exact hostWrite_pending hw
  all_goals rfl

/-! ### Progress: what is inside the interface is not refused -/

theorem perform_next_of_inside {e : HostEvent} (h : e.action.inside = true) (s : State) :
    ∃ t, perform e s = .next t := by
  obtain ⟨host, action⟩ := e
  cases action with
  | write width offset v =>
    obtain ⟨t, ht⟩ := hostWrite_next offset v s
    exact ⟨t, (if_pos h).trans ht⟩
  | read width offset => exact ⟨_, if_pos h⟩
  | attachBuf bytes => exact ⟨_, if_pos (of_decide_eq_true h)⟩
  | attachStr bytes => exact ⟨_, if_pos (of_decide_eq_true h)⟩
  | reset => exact ⟨_, rfl⟩

/-- While the pending actions are inside the interface, a step answers a next state and takes off one action, if there is
one. -/
theorem step_next_of_pendingInside {s : State} (h : s.pendingInside = true) :
    ∃ t, step s = .next t ∧ t.pending = s.pending.tail := by
  cases hp : s.pending with
  | nil => exact ⟨s, step_idle hp, hp⟩
  | cons e rest =>
    have hin : e.action.inside = true := List.all_eq_true.1 h e (by simp [hp])
    obtain ⟨t, ht⟩ := perform_next_of_inside hin { s with pending := rest }
    exact ⟨t, (step_pending hp).trans ht, perform_pending ht⟩

/-- Preservation: a shorter list of actions inside the interface is still inside. -/
theorem State.pendingInside_of_tail {s t : State} (h : s.pendingInside = true) (ht : t.pending = s.pending.tail) :
    t.pendingInside = true := by
  refine List.all_eq_true.2 fun e he => List.all_eq_true.1 h e ?_
  exact List.mem_of_mem_tail (ht ▸ he)

/-! ### Runs -/

@[simp] theorem runSteps_zero (s : State) : runSteps 0 s = .next s := rfl

theorem run_succ_of_step {M : Host.Core} {s t : M.State} (h : M.step s = .next t) (k : Nat) :
    M.run (k + 1) s = M.run k t := by
  rw [Host.Core.run, h]

theorem runSteps_succ_of_step {s t : State} (h : step s = .next t) (k : Nat) : runSteps (k + 1) s = runSteps k t :=
  run_succ_of_step (M := core) h k

/-- Settles O54, by induction on the number of steps: `State.pendingInside` gives a next state, and the next state meets it
again. -/
theorem runsInsideTheInterfaceNeverStop : Obligations.RunsInsideTheInterfaceNeverStop := by
  intro k
  induction k with
  | zero => exact fun s _ => ⟨s, runSteps_zero s, rfl⟩
  | succ k ih =>
    intro s hs
    obtain ⟨t, hstep, htail⟩ := step_next_of_pendingInside hs
    obtain ⟨u, hrun, hdrop⟩ := ih t (State.pendingInside_of_tail hs htail)
    refine ⟨u, (runSteps_succ_of_step hstep k).trans hrun, ?_⟩
    calc u.pending = t.pending.drop k := hdrop
      _ = s.pending.tail.drop k := by rw [htail]
      _ = s.pending.drop (k + 1) := List.drop_tail

end Sys2Proof.Machine
end

section
/-! SUPPORT. The fields of the STATUS a command leaves (10_state.md R21-R24), and how every command ends: the value it
completes with fits its result kind, and a consuming command completes only where the bytes it passes exist. -/

namespace Sys2Proof.Machine

/-! ### The two forms of STATUS -/

@[simp] theorem statusErr_successStatus (k : ResultKind) : statusErr (successStatus k) = 0 := by cases k <;> rfl
@[simp] theorem statusValid_successStatus (k : ResultKind) : statusValid (successStatus k) = true := by cases k <;> rfl
@[simp] theorem statusRkind_successStatus_toNat (k : ResultKind) :
    (statusRkind (successStatus k)).toNat = k.code.toNat := by cases k <;> rfl
theorem statusErr_errorStatus_ne_zero (e : ErrorKind) : statusErr (errorStatus e) ≠ 0 := by cases e <;> decide
theorem statusErr_errorStatus_toNat_le (e : ErrorKind) : (statusErr (errorStatus e)).toNat ≤ 3 := by cases e <;> decide
@[simp] theorem statusValid_errorStatus (e : ErrorKind) : statusValid (errorStatus e) = false := by cases e <;> rfl
@[simp] theorem statusRkind_errorStatus (e : ErrorKind) : statusRkind (errorStatus e) = 0 := by cases e <;> rfl

theorem successStatus_mem (k : ResultKind) : successStatus k ∈ [0x110, 0x210, 0x310, 0x001, 0x002, 0x003] := by
  cases k <;> decide

theorem errorStatus_mem (e : ErrorKind) : errorStatus e ∈ [0x110, 0x210, 0x310, 0x001, 0x002, 0x003] := by
  cases e <;> decide

/-- R21's list is 0 and the two forms a command writes. -/
theorem statusValues_cases {x : Word} (h : x ∈ statusValues) :
    x = 0 ∨ (∃ k, x = successStatus k) ∨ ∃ e, x = errorStatus e := by
  simp only [statusValues, List.mem_cons, List.not_mem_nil, or_false] at h
  obtain rfl | rfl | rfl | rfl | rfl | rfl | rfl := h
  · exact .inl rfl
  · exact .inr (.inl ⟨.byte, rfl⟩)
  · exact .inr (.inl ⟨.u16, rfl⟩)
  · exact .inr (.inl ⟨.ipv4, rfl⟩)
  · exact .inr (.inr ⟨.rangeError, rfl⟩)
  · exact .inr (.inr ⟨.endOfSource, rfl⟩)
  · exact .inr (.inr ⟨.illegalCommand, rfl⟩)

theorem successStatus_ne_zero (k : ResultKind) : successStatus k ≠ 0 := by cases k <;> decide

/-- Of the values STATUS ever holds, 0 alone has ERR = 0 and VALID = 0. -/
theorem statusValid_iff_of_listed {x : Word} (h : x ∈ statusValues) :
    statusValid x = true ↔ statusErr x = 0 ∧ x ≠ 0 := by
  obtain rfl | ⟨k, rfl⟩ | ⟨e, rfl⟩ := statusValues_cases h
  · decide
  · exact ⟨fun _ => ⟨statusErr_successStatus k, successStatus_ne_zero k⟩, fun _ => statusValid_successStatus k⟩
  · exact ⟨fun hv => by simp at hv, fun ⟨he, _⟩ => absurd he (statusErr_errorStatus_ne_zero e)⟩

/-! ### How a command ends -/

/-- The width a result of this kind fits (R19, R24). -/
def ResultKind.fits : ResultKind → Word → Prop
  | .byte, v => v.toNat < 2 ^ 8
  | .u16, v => v.toNat < 2 ^ 16
  | .ipv4, _ => True

theorem ResultKind.fits_byte (v : Byte) : ResultKind.byte.fits (v.setWidth 32) := by
  rw [ResultKind.fits, BitVec.toNat_setWidth]
  exact (Nat.mod_le _ _).trans_lt v.isLt

theorem ResultKind.fits_u16 (v : Half) : ResultKind.u16.fits (v.setWidth 32) := by
  rw [ResultKind.fits, BitVec.toNat_setWidth]
  exact (Nat.mod_le _ _).trans_lt v.isLt

/-- What holds of every value of a step's continuation holds of every value of the step followed by it. -/
theorem except_bind_forall {α β : Type} {P : β → Prop} {x : Except ErrorKind α} {f : α → Except ErrorKind β}
    (h : ∀ a, x = .ok a → ∀ b, f a = .ok b → P b) : ∀ b, (x >>= f) = .ok b → P b := by
  cases x with
  | ok a => exact h a rfl
  | error e => exact fun _ hb => nomatch hb

theorem except_pure_forall {α : Type} {P : α → Prop} {a : α} (h : P a) :
    ∀ b, (pure a : Except ErrorKind α) = .ok b → P b :=
  fun _ hb => Except.ok.inj hb ▸ h

theorem State.le_of_strRead_ok {s : State} {a n : Nat} {f : Fin n → Byte} (h : s.strRead a n = .ok f) :
    a + n ≤ s.str.len.toNat := by
  by_contra hlt
  rw [State.strRead_of_lt (Nat.lt_of_not_le hlt)] at h
  cases h

theorem State.advance_zero (s : State) : s.advance 0 = s := by
  simp [State.advance]

/-- A command that leaves POS alone ends as one that consumes nothing. -/
theorem State.deliver_eq_deliverConsuming_zero (s : State) (k : ResultKind) (r : Except ErrorKind Word) :
    s.deliver k r = s.deliverConsuming 0 k r := by
  cases r with
  | ok v => rw [State.deliver_ok, State.deliverConsuming_ok, State.advance_zero]
  | error e => rfl

/-- Every command ends with its own POS change (R43) and result kind (R24). Where its checks pass, the value fits the kind,
and the bytes POS moves over are there (R37). -/
theorem exec_finish (i : Instr) (s : State) : ∃ k r, exec i s = s.deliverConsuming (posChange i) k r ∧
    k.code.toNat = kindCode i ∧
    ∀ v, r = .ok v → k.fits v ∧ (posChange i = 0 ∨ s.pos.toNat + posChange i ≤ s.str.len.toNat) := by
  cases i with
  | brdbits p l =>
    exact ⟨_, _, s.deliver_eq_deliverConsuming_zero _ _, rfl, except_bind_forall fun _ _ => except_bind_forall fun _ _ =>
      except_pure_forall ⟨ResultKind.fits_byte _, .inl rfl⟩⟩
  | xbits p l =>
    exact ⟨_, _, s.deliver_eq_deliverConsuming_zero _ _, rfl, except_bind_forall fun _ _ =>
      except_pure_forall ⟨ResultKind.fits_byte _, .inl rfl⟩⟩
  | brdu16bits p l =>
    exact ⟨_, _, s.deliver_eq_deliverConsuming_zero _ _, rfl, except_bind_forall fun _ _ => except_bind_forall fun _ _ =>
      except_pure_forall ⟨ResultKind.fits_u16 _, .inl rfl⟩⟩
  | brdu16 =>
    exact ⟨_, _, s.deliver_eq_deliverConsuming_zero _ _, rfl, except_bind_forall fun _ _ =>
      except_pure_forall ⟨ResultKind.fits_u16 _, .inl rfl⟩⟩
  | brdipv4 =>
    exact ⟨_, _, s.deliver_eq_deliverConsuming_zero _ _, rfl, except_bind_forall fun _ _ =>
      except_pure_forall ⟨trivial, .inl rfl⟩⟩
  | speek =>
    exact ⟨_, _, s.deliver_eq_deliverConsuming_zero _ _, rfl, except_bind_forall fun _ _ =>
      except_pure_forall ⟨ResultKind.fits_byte _, .inl rfl⟩⟩
  | speekbits p l =>
    exact ⟨_, _, s.deliver_eq_deliverConsuming_zero _ _, rfl, except_bind_forall fun _ _ => except_bind_forall fun _ _ =>
      except_pure_forall ⟨ResultKind.fits_byte _, .inl rfl⟩⟩
  | sconsumebits p l =>
    exact ⟨_, _, rfl, rfl, except_bind_forall fun _ _ => except_bind_forall fun _ hb =>
      except_pure_forall ⟨ResultKind.fits_byte _, .inr (State.le_of_strRead_ok hb)⟩⟩
  | srdu16 =>
    exact ⟨_, _, rfl, rfl, except_bind_forall fun _ hb =>
      except_pure_forall ⟨ResultKind.fits_u16 _, .inr (State.le_of_strRead_ok hb)⟩⟩
  | srdu16bits p l =>
    exact ⟨_, _, rfl, rfl, except_bind_forall fun _ _ => except_bind_forall fun _ hb =>
      except_pure_forall ⟨ResultKind.fits_u16 _, .inr (State.le_of_strRead_ok hb)⟩⟩
  | srdipv4 =>
    exact ⟨_, _, rfl, rfl, except_bind_forall fun _ hb =>
      except_pure_forall ⟨trivial, .inr (State.le_of_strRead_ok hb)⟩⟩

/-- The two ends of a CMD write: an error, or the completion of the command the word decodes to. -/
theorem executeCommand_cases {w : Word} {s t : State} (h : executeCommand w s = .next t) :
    (∃ e, t = State.raise { s with cmd := w } e) ∨
      ∃ i k v, decode w = .ok i ∧ t = (State.advance { s with cmd := w } (posChange i)).complete k v ∧
        k.code.toNat = kindCode i ∧ k.fits v ∧
        (posChange i = 0 ∨ s.pos.toNat + posChange i ≤ s.str.len.toNat) := by
  cases hd : decode w with
  | error x => exact .inl ⟨_, Host.Outcome.next.inj (h.symm.trans (executeCommand_of_error hd s))⟩
  | ok i =>
    obtain ⟨k, r, hexec, hkind, hval⟩ := exec_finish i { s with cmd := w }
    rw [executeCommand_of_ok hd, hexec] at h
    obtain ⟨v, hr, ht⟩ | ⟨e, -, ht⟩ := State.deliverConsuming_cases h
    · obtain ⟨hfits, hbound⟩ := hval v hr
      exact .inr ⟨i, k, v, rfl, ht, hkind, hfits, hbound⟩
    · exact .inl ⟨e, ht⟩

end Sys2Proof.Machine
end

section
/-! SUPPORT. What a host action and a step do to the unit: the register at each offset, each access inside and outside the
interface, the registers an action may change, and runs taken apart step by step. -/

namespace Sys2Proof.Machine

/-! ### The register map (10_state.md R15) -/

theorem regAt_eq_cmd_iff {offset : Nat} : regAt offset = .cmd ↔ offset = 0x00 := by
  unfold regAt
  split <;> simp_all

theorem regAt_eq_opnd_iff {offset : Nat} : regAt offset = .opnd ↔ offset = 0x04 := by
  unfold regAt
  split <;> simp_all

theorem regAt_eq_pos_iff {offset : Nat} : regAt offset = .pos ↔ offset = 0x10 := by
  unfold regAt
  split <;> simp_all

theorem regAt_of_ge {offset : Nat} (h : 0x1C ≤ offset) : regAt offset = .reserved := by
  unfold regAt
  split <;> simp at h ⊢

theorem State.readReg_regAt (s : State) (offset : Nat) : s.readReg (regAt offset) =
    if offset = 0x00 then s.cmd else if offset = 0x04 then s.opnd else if offset = 0x08 then s.result
    else if offset = 0x0C then s.status &&& 0x0000031F else if offset = 0x10 then s.pos
    else if offset = 0x14 then s.buf.len else if offset = 0x18 then s.str.len else 0 := by
  unfold regAt
  split <;> simp_all [State.readReg, State.statusRead, statusImplemented]

/-! ### Register accesses (R16) -/

theorem hostWrite_cmd (w : Word) (s : State) : hostWrite 0x00 w s = executeCommand w s := rfl

/-- A write to a register other than CMD, OPND and POS is ignored. -/
theorem hostWrite_ignored {offset : Nat} (hcmd : regAt offset ≠ .cmd) (hopnd : regAt offset ≠ .opnd)
    (hpos : regAt offset ≠ .pos) (v : Word) (s : State) : hostWrite offset v s = .next s := by
  obtain ⟨t, ht⟩ := hostWrite_next offset v s
  obtain ⟨h, -⟩ | ⟨h, -⟩ | ⟨h, -⟩ | ⟨-, -, -, rfl⟩ := hostWrite_cases ht
  · exact absurd h hcmd
  · exact absurd h hopnd
  · exact absurd h hpos
  · exact ht

theorem perform_write_inside {width offset : Nat} (h : insideInterface width offset = true) (host : Nat) (v : Word)
    (s : State) : perform ⟨host, .write width offset v⟩ s = hostWrite offset v s := if_pos h

theorem perform_write_outside {width offset : Nat} (h : insideInterface width offset ≠ true) (host : Nat) (v : Word)
    (s : State) : perform ⟨host, .write width offset v⟩ s = .refused (.outsideInterface width offset) := if_neg h

theorem perform_read_inside {width offset : Nat} (h : insideInterface width offset = true) (host : Nat) (s : State) :
    perform ⟨host, .read width offset⟩ s = .next (hostRead host offset s) := if_pos h

theorem perform_read_outside {width offset : Nat} (h : insideInterface width offset ≠ true) (host : Nat) (s : State) :
    perform ⟨host, .read width offset⟩ s = .refused (.outsideInterface width offset) := if_neg h

/-! ### Attached sources (R25) -/

theorem attachBuf_of_le {bytes : List Byte} (h : bytes.length ≤ Config.maxSrcLen) (s : State) :
    attachBuf bytes s = .next { s with buf := Memory.ofBytes bytes } := if_pos h

theorem attachStr_of_le {bytes : List Byte} (h : bytes.length ≤ Config.maxSrcLen) (s : State) :
    attachStr bytes s = .next { s with str := Memory.ofBytes bytes } := if_pos h

theorem attachBuf_of_gt {bytes : List Byte} (h : Config.maxSrcLen < bytes.length) (s : State) :
    attachBuf bytes s = .refused (.sourceTooLong bytes.length) := if_neg (Nat.not_le_of_gt h)

theorem attachStr_of_gt {bytes : List Byte} (h : Config.maxSrcLen < bytes.length) (s : State) :
    attachStr bytes s = .refused (.sourceTooLong bytes.length) := if_neg (Nat.not_le_of_gt h)

theorem Memory.ofBytes_readByte {bytes : List Byte} (h : bytes.length ≤ Config.maxSrcLen) (a : Nat) :
    (Memory.ofBytes bytes).readByte a = bytes[a]? := by
  have hlen := Memory.ofBytes_len h
  by_cases ha : a < bytes.length
  · rw [Memory.readByte_of_lt (by omega), Memory.ofBytes_byteAt, List.getD_eq_getElem _ _ ha,
      List.getElem?_eq_getElem ha]
  · rw [Memory.readByte_of_le (by omega), List.getElem?_eq_none (by omega)]

/-! ### What an action may change -/

/-- A CMD write, a POS write and a reset are the only actions that change CMD, RESULT, STATUS or POS. -/
theorem perform_registers {e : HostEvent} {s t : State} (h : perform e s = .next t) :
    (∃ w, e.action = .write 32 0x00 w ∧ executeCommand w s = .next t) ∨
      (∃ v, e.action = .write 32 0x10 v ∧ t = { s with pos := v }) ∨
      (e.action = .reset ∧ t = s.resetUnit) ∨
      ((∀ w, e.action ≠ .write 32 0x00 w) ∧ e.action ≠ .reset ∧
        t.cmd = s.cmd ∧ t.result = s.result ∧ t.status = s.status ∧ t.pos = s.pos) := by
  obtain ⟨offset, v, ha, hw⟩ | ⟨offset, ha, rfl⟩ | ⟨bytes, ha, -, rfl⟩ | ⟨bytes, ha, -, rfl⟩ | ⟨ha, rfl⟩ :=
    perform_cases h
  · obtain ⟨hr, hexec⟩ | ⟨hr, rfl⟩ | ⟨hr, rfl⟩ | ⟨hr, -, -, rfl⟩ := hostWrite_cases hw
    · exact .inl ⟨v, regAt_eq_cmd_iff.1 hr ▸ ha, hexec⟩
    · obtain rfl := regAt_eq_opnd_iff.1 hr
      exact .inr (.inr (.inr (by simp [ha])))
    · exact .inr (.inl ⟨v, regAt_eq_pos_iff.1 hr ▸ ha, rfl⟩)
    · have h0 : offset ≠ 0x00 := fun h0 => hr (regAt_eq_cmd_iff.2 h0)
      exact .inr (.inr (.inr (by simp [ha, h0])))
  · exact .inr (.inr (.inr (by simp [ha])))
  · exact .inr (.inr (.inr (by simp [ha])))
  · exact .inr (.inr (.inr (by simp [ha])))
  · exact .inr (.inr (.inl ⟨ha, rfl⟩))

theorem executeCommand_sources {w : Word} {s t : State} (h : executeCommand w s = .next t) :
    t.buf = s.buf ∧ t.str = s.str := by
  obtain ⟨e, rfl⟩ | ⟨i, k, v, -, rfl, -⟩ := executeCommand_cases h <;> exact ⟨rfl, rfl⟩

/-- An action leaves sources in canonical form where it finds them so. -/
theorem perform_keeps_sources_wf {e : HostEvent} {s t : State} (h : perform e s = .next t) (hbuf : s.buf.wf = true)
    (hstr : s.str.wf = true) : t.buf.wf = true ∧ t.str.wf = true := by
  obtain ⟨offset, v, -, hw⟩ | ⟨offset, -, rfl⟩ | ⟨bytes, -, hlen, rfl⟩ | ⟨bytes, -, hlen, rfl⟩ | ⟨-, rfl⟩ :=
    perform_cases h
  · obtain ⟨-, hexec⟩ | ⟨-, rfl⟩ | ⟨-, rfl⟩ | ⟨-, -, -, rfl⟩ := hostWrite_cases hw
    · obtain ⟨hb, hs⟩ := executeCommand_sources hexec
      exact ⟨hb ▸ hbuf, hs ▸ hstr⟩
    all_goals exact ⟨hbuf, hstr⟩
  · exact ⟨hbuf, hstr⟩
  · exact ⟨Memory.ofBytes_wf hlen, hstr⟩
  · exact ⟨hbuf, Memory.ofBytes_wf hlen⟩
  · exact ⟨hbuf, hstr⟩

/-! ### Steps and runs -/

/-- A step waits or performs the next action. -/
theorem step_cases {s t : State} (h : step s = .next t) :
    (s.pending = [] ∧ t = s) ∨
      ∃ e rest, s.pending = e :: rest ∧ perform e { s with pending := rest } = .next t := by
  cases hp : s.pending with
  | nil => exact .inl ⟨rfl, Host.Outcome.next.inj (h.symm.trans (step_idle hp))⟩
  | cons e rest => exact .inr ⟨e, rest, rfl, (step_pending hp).symm.trans h⟩

theorem run_succ_of_refused {M : Host.Core} {s : M.State} {r : M.Refusal} (h : M.step s = .refused r) (k : Nat) :
    M.run (k + 1) s = .refused r := by
  rw [Host.Core.run, h]

/-- A run of `k + 1` steps is a step and a run of `k` steps. -/
theorem runSteps_succ_cases {k : Nat} {s u : State} (h : runSteps (k + 1) s = .next u) :
    ∃ t, step s = .next t ∧ runSteps k t = .next u := by
  cases hs : step s with
  | next t => exact ⟨t, rfl, (runSteps_succ_of_step hs k).symm.trans h⟩
  | fault r => exact nomatch r
  | refused r => exact nomatch (run_succ_of_refused (M := core) hs k).symm.trans h

end Sys2Proof.Machine
end

section
/-! SUPPORT. The obligations about the registers: the invariant, STATUS, POS and RESULT. -/

namespace Sys2Proof.Machine

/-! ### The invariant -/

/-- Settles O51: every register is 0 and no source is attached. -/
theorem resetMeetsTheInvariant : Obligations.ResetMeetsTheInvariant where
  status_listed := by decide
  byte_fits := fun _ => by decide
  u16_fits := fun _ => by decide
  quiet := fun _ => ⟨rfl, rfl⟩
  buf_wf := Memory.empty_wf
  str_wf := Memory.empty_wf

theorem successStatus_listed (k : ResultKind) : successStatus k ∈ statusValues :=
  List.mem_cons_of_mem 0 (successStatus_mem k)

theorem errorStatus_listed (e : ErrorKind) : errorStatus e ∈ statusValues :=
  List.mem_cons_of_mem 0 (errorStatus_mem e)

theorem errorStatus_ne_zero (e : ErrorKind) : errorStatus e ≠ 0 := by cases e <;> decide

/-- A raised error leaves a STATUS that is neither 0 nor a success, so only the sources matter. -/
theorem State.Inv_of_error {t : State} {e : ErrorKind} (h : t.status = errorStatus e) (hbuf : t.buf.wf = true)
    (hstr : t.str.wf = true) : t.Inv where
  status_listed := h ▸ errorStatus_listed e
  byte_fits h' := by cases e <;> cases h.symm.trans h'
  u16_fits h' := by cases e <;> cases h.symm.trans h'
  quiet h' := absurd (h.symm.trans h') (errorStatus_ne_zero e)
  buf_wf := hbuf
  str_wf := hstr

/-- A completed command leaves a STATUS that names the kind its result fits. -/
theorem State.Inv_of_success {t : State} {k : ResultKind} (h : t.status = successStatus k) (hfits : k.fits t.result)
    (hbuf : t.buf.wf = true) (hstr : t.str.wf = true) : t.Inv where
  status_listed := h ▸ successStatus_listed k
  byte_fits h' := by
    cases k with
    | byte => exact hfits
    | u16 => cases h.symm.trans h'
    | ipv4 => cases h.symm.trans h'
  u16_fits h' := by
    cases k with
    | byte => cases h.symm.trans h'
    | u16 => exact hfits
    | ipv4 => cases h.symm.trans h'
  quiet h' := absurd (h.symm.trans h') (successStatus_ne_zero k)
  buf_wf := hbuf
  str_wf := hstr

/-- With CMD, RESULT and STATUS as they were, only the sources matter. -/
theorem State.Inv_of_same_registers {s t : State} (hs : s.Inv) (hcmd : t.cmd = s.cmd) (hresult : t.result = s.result)
    (hstatus : t.status = s.status) (hbuf : t.buf.wf = true) (hstr : t.str.wf = true) : t.Inv where
  status_listed := hstatus ▸ hs.status_listed
  byte_fits := by rw [hstatus, hresult]; exact hs.byte_fits
  u16_fits := by rw [hstatus, hresult]; exact hs.u16_fits
  quiet := by rw [hstatus, hcmd, hresult]; exact hs.quiet
  buf_wf := hbuf
  str_wf := hstr

theorem perform_keeps_Inv {e : HostEvent} {s t : State} (hs : s.Inv) (h : perform e s = .next t) : t.Inv := by
  obtain ⟨hbuf, hstr⟩ := perform_keeps_sources_wf h hs.buf_wf hs.str_wf
  obtain ⟨w, -, hexec⟩ | ⟨v, -, rfl⟩ | ⟨-, rfl⟩ | ⟨-, -, hcmd, hresult, hstatus, -⟩ := perform_registers h
  · obtain ⟨e, rfl⟩ | ⟨i, k, v, -, rfl, -, hfits, -⟩ := executeCommand_cases hexec
    · exact State.Inv_of_error rfl hbuf hstr
    · exact State.Inv_of_success rfl hfits hbuf hstr
  · exact State.Inv_of_same_registers hs rfl rfl rfl hbuf hstr
  · exact State.Inv_of_same_registers resetMeetsTheInvariant rfl rfl rfl hbuf hstr
  · exact State.Inv_of_same_registers hs hcmd hresult hstatus hbuf hstr

/-- Settles O52, by the action the step performs: a CMD write ends in an error or a completion, each with a STATUS that
keeps the invariant; a reset sets CMD, RESULT and STATUS as at power-on; any other action leaves them alone. -/
theorem stepKeepsTheInvariant : Obligations.StepKeepsTheInvariant := by
  intro s t hs h
  obtain ⟨-, rfl⟩ | ⟨e, rest, -, hperf⟩ := step_cases h
  · exact hs
  · have hs' : State.Inv { s with pending := rest } :=
      State.Inv_of_same_registers hs rfl rfl rfl hs.buf_wf hs.str_wf
    exact perform_keeps_Inv hs' hperf

/-! ### STATUS after a command -/

/-- Settles O29: STATUS is `errorStatus` of an error, or `successStatus` of the kind of the decoded command. -/
theorem commandRewritesStatusFields : Obligations.CommandRewritesStatusFields := by
  intro w s t h
  obtain ⟨e, rfl⟩ | ⟨i, k, v, hd, rfl, hkind, -, -⟩ := executeCommand_cases h
  · have herr := statusErr_errorStatus_ne_zero e
    refine ⟨errorStatus_mem e, statusErr_errorStatus_toNat_le e, ?_, fun _ => statusRkind_errorStatus e,
      fun _ _ h0 => absurd h0 herr⟩
    simpa using herr
  · refine ⟨successStatus_mem k, ?_, ?_, fun hne => absurd (statusErr_successStatus k) hne, ?_⟩
    · simp
    · simp
    · intro j hj _
      cases hd.symm.trans hj
      exact (statusRkind_successStatus_toNat k).trans hkind

/-- A CMD write never leaves STATUS as a reset does. -/
theorem executeCommand_status_ne_zero {w : Word} {s t : State} (h : executeCommand w s = .next t) : t.status ≠ 0 := by
  obtain ⟨e, rfl⟩ | ⟨i, k, v, -, rfl, -⟩ := executeCommand_cases h
  · exact errorStatus_ne_zero e
  · exact successStatus_ne_zero k

theorem executeCommand_status_listed {w : Word} {s t : State} (h : executeCommand w s = .next t) :
    t.status ∈ statusValues := by
  obtain ⟨e, rfl⟩ | ⟨i, k, v, -, rfl, -⟩ := executeCommand_cases h
  · exact errorStatus_listed e
  · exact successStatus_listed k

/-- Without a reset, STATUS stays listed, and it is 0 after an action exactly when it was 0 before and the action is no CMD
write. -/
theorem perform_status {e : HostEvent} {s t : State} (h : perform e s = .next t) (hr : e.action ≠ .reset)
    (hs : s.status ∈ statusValues) :
    t.status ∈ statusValues ∧ (t.status ≠ 0 ↔ s.status ≠ 0 ∨ ∃ w, e.action = .write 32 0x00 w) := by
  obtain ⟨w, ha, hexec⟩ | ⟨v, ha, rfl⟩ | ⟨ha, -⟩ | ⟨hcmd, -, -, -, hstatus, -⟩ := perform_registers h
  · exact ⟨executeCommand_status_listed hexec, fun _ => .inr ⟨w, ha⟩, fun _ => executeCommand_status_ne_zero hexec⟩
  · exact ⟨hs, by simp [ha]⟩
  · exact absurd ha hr
  · exact ⟨hstatus ▸ hs, by simp [hstatus, hcmd]⟩

/-- `perform_status` along a run: STATUS leaves 0 exactly at the first CMD write. -/
theorem runSteps_status {k : Nat} {s t : State} (hs : s.status ∈ statusValues)
    (hr : ∀ e ∈ s.pending.take k, e.action ≠ .reset) (h : runSteps k s = .next t) :
    t.status ∈ statusValues ∧
      (t.status ≠ 0 ↔ s.status ≠ 0 ∨ ∃ e ∈ s.pending.take k, ∃ w, e.action = .write 32 0x00 w) := by
  induction k generalizing s with
  | zero =>
    cases Host.Outcome.next.inj h
    exact ⟨hs, by simp⟩
  | succ k ih =>
    obtain ⟨u, hstep, hrun⟩ := runSteps_succ_cases h
    obtain ⟨hp, rfl⟩ | ⟨e, rest, hp, hperf⟩ := step_cases hstep
    · simpa [hp] using ih hs (by simp [hp]) hrun
    · have hrest : u.pending = rest := perform_pending hperf
      simp only [hp, List.take_succ_cons, List.forall_mem_cons] at hr
      obtain ⟨hre, hrr⟩ := hr
      obtain ⟨hu, hu0⟩ := perform_status hperf hre hs
      obtain ⟨ht, ht0⟩ := ih hu (hrest ▸ hrr) hrun
      refine ⟨ht, ht0.trans ?_⟩
      rw [hu0, hrest, hp, List.take_succ_cons, List.exists_mem_cons_iff, or_assoc]

/-- Settles O30: over a run without a reset STATUS is nonzero exactly when a CMD write was performed, and of the listed
values only a nonzero one with ERR = 0 has VALID = 1. -/
theorem validMeansNoErrorAndExecutedSinceReset : Obligations.ValidMeansNoErrorAndExecutedSinceReset := by
  refine ⟨statusValid_successStatus, statusValid_errorStatus, ?_⟩
  intro k s t hs hr hrun
  obtain ⟨ht, ht0⟩ := runSteps_status (hs ▸ List.mem_cons_self) hr hrun
  rw [statusValid_iff_of_listed ht, ht0]
  simp [hs]

/-! ### Who changes POS, RESULT and STATUS -/

/-- Settles O37, by the action the step performs. -/
theorem posChangesOnlyByWriteConsumeOrReset : Obligations.PosChangesOnlyByWriteConsumeOrReset := by
  intro s t h hne
  obtain ⟨-, rfl⟩ | ⟨e, rest, hp, hperf⟩ := step_cases h
  · exact absurd rfl hne
  refine ⟨e, rest, hp, ?_⟩
  obtain ⟨w, ha, hexec⟩ | ⟨v, ha, rfl⟩ | ⟨ha, rfl⟩ | ⟨-, -, -, -, -, hpos⟩ := perform_registers hperf
  · obtain ⟨_, rfl⟩ | ⟨i, k, v, hd, rfl, -, -, hbound⟩ := executeCommand_cases hexec
    · exact absurd rfl hne
    · have hmoved : posChange i ≠ 0 := fun h0 => hne (by simp [h0])
      have hexact := State.advance_pos_toNat (hbound.resolve_left hmoved)
      exact .inr (.inl ⟨w, i, ha, hd, statusErr_successStatus k, Nat.pos_of_ne_zero hmoved, hexact⟩)
  · exact .inl ⟨v, ha, rfl⟩
  · exact .inr (.inr ⟨ha, rfl⟩)
  · exact absurd hpos hne

/-- Settles O38, by the action the step performs. -/
theorem resultAndStatusChangeOnlyByCommandOrReset : Obligations.ResultAndStatusChangeOnlyByCommandOrReset := by
  intro s t h
  obtain ⟨-, rfl⟩ | ⟨e, rest, hp, hperf⟩ := step_cases h
  · exact ⟨fun hne => absurd rfl hne, fun hne => absurd rfl hne⟩
  obtain ⟨w, ha, hexec⟩ | ⟨v, -, rfl⟩ | ⟨ha, -⟩ | ⟨-, -, -, hresult, hstatus, -⟩ := perform_registers hperf
  · refine ⟨fun hne => ⟨e, rest, hp, .inl ⟨w, ha, ?_⟩⟩, fun _ => ⟨e, rest, hp, .inl ⟨w, ha⟩⟩⟩
    obtain ⟨_, rfl⟩ | ⟨i, k, v, -, rfl, -⟩ := executeCommand_cases hexec
    · exact absurd rfl hne
    · exact statusValid_successStatus k
  · exact ⟨fun hne => absurd rfl hne, fun hne => absurd rfl hne⟩
  · exact ⟨fun _ => ⟨e, rest, hp, .inr ha⟩, fun _ => ⟨e, rest, hp, .inr ha⟩⟩
  · exact ⟨fun hne => absurd hresult hne, fun hne => absurd hstatus hne⟩

end Sys2Proof.Machine
end

section
/-! SUPPORT. The obligations about what a command does not read, about the register port, and about the sources. -/

namespace Sys2Proof.Machine

/-! ### What a command does not read (10_state.md R18, R28) -/

theorem State.deliver_of_status (s : State) (x : Word) (k : ResultKind) (r : Except ErrorKind Word) :
    State.deliver { s with status := x } k r = s.deliver k r := by cases r <;> rfl

theorem State.deliverConsuming_of_status (s : State) (x : Word) (n : Nat) (k : ResultKind)
    (r : Except ErrorKind Word) :
    State.deliverConsuming { s with status := x } n k r = s.deliverConsuming n k r := by cases r <;> rfl

theorem exec_of_status (i : Instr) (s : State) (x : Word) : exec i { s with status := x } = exec i s := by
  cases i with
  | sconsumebits | srdu16 | srdu16bits | srdipv4 => exact State.deliverConsuming_of_status s x _ _ _
  | _ => exact State.deliver_of_status s x _ _

/-- Settles O31: no command's value or error depends on STATUS, and both ends of a command overwrite it. -/
theorem commandsIgnoreStatus : Obligations.CommandsIgnoreStatus := by
  intro w x s
  cases hd : decode w with
  | ok i => rw [executeCommand_of_ok hd, executeCommand_of_ok hd, ← exec_of_status i { s with cmd := w } x]
  | error y =>
    rw [executeCommand_of_error hd, executeCommand_of_error hd]
    rfl

/-- Ending a command with the same value or error commutes with changing OPND. -/
theorem State.deliver_of_opnd (s : State) (x : Word) (k : ResultKind) (r : Except ErrorKind Word) :
    ∃ t, s.deliver k r = .next t ∧ State.deliver { s with opnd := x } k r = .next { t with opnd := x } := by
  cases r <;> exact ⟨_, rfl, rfl⟩

theorem State.deliverConsuming_of_opnd (s : State) (x : Word) (n : Nat) (k : ResultKind) (r : Except ErrorKind Word) :
    ∃ t, s.deliverConsuming n k r = .next t ∧
      State.deliverConsuming { s with opnd := x } n k r = .next { t with opnd := x } := by
  cases r <;> exact ⟨_, rfl, rfl⟩

/-- Settles O40: the value or error of a stream command is the same expression whatever OPND is, and that of XBITS reads
only the low byte. -/
theorem opndIsReadOnlyWhereTheSpecSays : Obligations.OpndIsReadOnlyWhereTheSpecSays := by
  constructor
  · intro i s x hi
    cases i with
    | speek | speekbits => exact State.deliver_of_opnd s x _ _
    | sconsumebits | srdu16 | srdu16bits | srdipv4 => exact State.deliverConsuming_of_opnd s x _ _ _
    | _ => cases hi
  · intro p l s x hx
    have hbyte : State.byteOperand { s with opnd := x } = s.byteOperand := hx
    simp only [exec, execXbits, hbyte]
    exact State.deliver_of_opnd s x _ _

/-! ### Steps that perform a given access -/

/-- A step that performs an aligned 32-bit write is `hostWrite` with the action taken off the list. -/
theorem step_write {s : State} {h offset : Nat} {v : Word} {rest : List HostEvent}
    (hp : s.pending = ⟨h, .write 32 offset v⟩ :: rest) (hin : insideInterface 32 offset = true) :
    step s = hostWrite offset v { s with pending := rest } :=
  (step_pending hp).trans (perform_write_inside hin h v _)

theorem step_read {s : State} {h offset : Nat} {rest : List HostEvent}
    (hp : s.pending = ⟨h, .read 32 offset⟩ :: rest) (hin : insideInterface 32 offset = true) :
    step s = .next (hostRead h offset { s with pending := rest }) :=
  (step_pending hp).trans (perform_read_inside hin h _)

/-- Settles O44: offset 0x00 is CMD, and a CMD write runs `executeCommand`. -/
theorem stepRunsTheDecodedCommand : Obligations.StepRunsTheDecodedCommand := by
  intro s h w rest hp
  have hstep : step s = executeCommand w { s with pending := rest } :=
    (step_write hp rfl).trans (hostWrite_cmd w _)
  exact ⟨fun i hd => hstep.trans (executeCommand_of_ok hd _), fun x hd => hstep.trans (executeCommand_of_error hd _)⟩

/-- Settles O47: offsets 0x04 and 0x10 are OPND and POS. -/
theorem hostWritesOpndAndPos : Obligations.HostWritesOpndAndPos :=
  fun _ _ _ _ => ⟨fun hp => step_write hp rfl, fun hp => step_write hp rfl⟩

/-- Settles O45: a read records `readReg` of the register at its offset and leaves the rest alone. -/
theorem portReadFollowsRegisterMap : Obligations.PortReadFollowsRegisterMap := by
  intro s h offset rest hp halign hlast
  rw [step_read hp (insideInterface_iff.2 ⟨rfl, halign, hlast⟩), ← State.readReg_regAt]
  rfl

/-- A write that is ignored takes the action off the list and does nothing else. -/
theorem hostWrite_readOnly_or_reserved {offset : Nat} (h : offset ∈ [0x08, 0x0C, 0x14, 0x18] ∨ 0x1C ≤ offset) (v : Word)
    (s : State) : hostWrite offset v s = .next s := by
  have hne : offset ≠ 0x00 ∧ offset ≠ 0x04 ∧ offset ≠ 0x10 := by
    simp only [List.mem_cons, List.not_mem_nil, or_false] at h
    omega
  obtain ⟨hcmd, hopnd, hpos⟩ := hne
  exact hostWrite_ignored (mt regAt_eq_cmd_iff.1 hcmd) (mt regAt_eq_opnd_iff.1 hopnd) (mt regAt_eq_pos_iff.1 hpos) v s

theorem hostWrite_off_cmd {offset : Nat} (h : offset ≠ 0x00) (v : Word) (s : State) :
    ∃ t, hostWrite offset v s = .next t ∧ t.cmd = s.cmd ∧ t.result = s.result ∧ t.status = s.status := by
  obtain ⟨t, ht⟩ := hostWrite_next offset v s
  obtain ⟨hr, -⟩ | ⟨-, rfl⟩ | ⟨-, rfl⟩ | ⟨-, -, -, rfl⟩ := hostWrite_cases ht
  · exact absurd (regAt_eq_cmd_iff.1 hr) h
  all_goals exact ⟨_, ht, rfl, rfl, rfl⟩

/-- Settles O46, by whether the access is inside the interface and then by which registers a write can change. -/
theorem portAccessRules : Obligations.PortAccessRules := by
  intro s h width offset v rest
  constructor
  · intro hout
    have hout' := mt insideInterface_iff.1 hout
    exact ⟨fun hp => (step_pending hp).trans (perform_write_outside hout' h v _),
      fun hp => (step_pending hp).trans (perform_read_outside hout' h _)⟩
  · intro hin
    have hin' := insideInterface_iff.2 hin
    obtain ⟨rfl, -, -⟩ := hin
    refine ⟨fun hp => ?_, fun hp => ⟨_, step_read hp hin', fun hge => ?_⟩⟩
    · rw [step_write hp hin']
      exact ⟨fun hro => hostWrite_readOnly_or_reserved hro v _, fun hne => hostWrite_off_cmd hne v _⟩
    · rw [regAt_of_ge hge]
      rfl

/-! ### Sources and reset (10_state.md sections 2 and 4) -/

/-- Settles O48: what is attached is `Memory.ofBytes` of the bytes. -/
theorem attachedBytesReadBack : Obligations.AttachedBytesReadBack := by
  intro s h bytes rest
  constructor
  · intro hlen
    have hback : (Memory.ofBytes bytes).len.toNat = bytes.length ∧
        ∀ a, (Memory.ofBytes bytes).readByte a = bytes[a]? :=
      ⟨Memory.ofBytes_len hlen, Memory.ofBytes_readByte hlen⟩
    exact ⟨fun hp => ⟨_, (step_pending hp).trans (attachBuf_of_le hlen _), hback⟩,
      fun hp => ⟨_, (step_pending hp).trans (attachStr_of_le hlen _), hback⟩⟩
  · rintro hlen (hp | hp)
    · exact (step_pending hp).trans (attachBuf_of_gt hlen _)
    · exact (step_pending hp).trans (attachStr_of_gt hlen _)

/-- Settles O49: a reset is `resetUnit`, and an empty source holds no byte. -/
theorem resetClearsRegistersKeepsSources : Obligations.ResetClearsRegistersKeepsSources :=
  ⟨fun _ _ _ hp => step_pending hp, rfl, rfl, rfl, rfl, rfl, rfl, rfl,
    fun a => ⟨Memory.readByte_of_le (Nat.zero_le a), Memory.readByte_of_le (Nat.zero_le a)⟩⟩

/-! ### Canonical sources (log 5) -/

theorem cellsCanonical_cons {lo hi a : Nat} {b : Byte} {rest : List Host.Cell} :
    cellsCanonical lo hi ((a, b) :: rest) = true ↔
      lo ≤ a ∧ a < hi ∧ b ≠ Memory.unlisted ∧ cellsCanonical (a + 1) hi rest = true := by
  simp [cellsCanonical, and_assoc]

theorem cellAt_cons_self (a : Nat) (b : Byte) (rest : List Host.Cell) : cellAt ((a, b) :: rest) a = b := if_pos rfl

theorem cellAt_cons_of_lt {a x : Nat} (h : a < x) (b : Byte) (rest : List Host.Cell) :
    cellAt ((a, b) :: rest) x = cellAt rest x := if_neg (Nat.ne_of_lt h)

/-- In a canonical list that agrees with one that begins at `a`, no cell stands before `a`. -/
theorem le_of_canonical_agree {lo hi a a' : Nat} {b' : Byte} {cells rest' : List Host.Cell}
    (hc : cellsCanonical a hi cells = true) (hd : cellsCanonical lo hi ((a', b') :: rest') = true)
    (h : ∀ x, x < hi → cellAt cells x = cellAt ((a', b') :: rest') x) : a ≤ a' := by
  obtain ⟨-, hhi, hb', -⟩ := cellsCanonical_cons.1 hd
  by_contra hlt
  have hnone := cellAt_of_canonical_lt hc (Nat.lt_of_not_le hlt)
  have hlisted := h a' hhi
  rw [cellAt_cons_self] at hlisted
  exact hb' (hlisted.symm.trans hnone)

/-- Canonical lists of cells that read the same at every address below the length are the same list: both begin at the
first address that holds a nonzero byte. -/
theorem cells_eq_of_canonical {lo hi : Nat} {cells cells' : List Host.Cell} (hc : cellsCanonical lo hi cells = true)
    (hc' : cellsCanonical lo hi cells' = true) (h : ∀ x, x < hi → cellAt cells x = cellAt cells' x) :
    cells = cells' := by
  induction cells generalizing lo cells' with
  | nil =>
    cases cells' with
    | nil => rfl
    | cons c' rest' =>
      obtain ⟨-, hhi', -, -⟩ := cellsCanonical_cons.1 hc'
      have hge : hi ≤ c'.1 := le_of_canonical_agree rfl hc' h
      omega
  | cons c rest ih =>
    obtain ⟨a, b⟩ := c
    obtain ⟨hlo, hhi, hb, hrest⟩ := cellsCanonical_cons.1 hc
    cases cells' with
    | nil =>
      have hge : hi ≤ a := le_of_canonical_agree rfl hc fun x hx => (h x hx).symm
      omega
    | cons c' rest' =>
      obtain ⟨a', b'⟩ := c'
      obtain ⟨hlo', hhi', hb', hrest'⟩ := cellsCanonical_cons.1 hc'
      have hle : a ≤ a' :=
        le_of_canonical_agree (cellsCanonical_cons.2 ⟨le_rfl, hhi, hb, hrest⟩) hc' h
      have hge : a' ≤ a :=
        le_of_canonical_agree (cellsCanonical_cons.2 ⟨le_rfl, hhi', hb', hrest'⟩) hc fun x hx => (h x hx).symm
      obtain rfl : a = a' := Nat.le_antisymm hle hge
      have hbyte : b = b' := by simpa only [cellAt_cons_self] using h a hhi
      have htail : rest = rest' := ih hrest hrest' fun x hx => by
        by_cases hax : a < x
        · simpa only [cellAt_cons_of_lt hax] using h x hx
        · rw [cellAt_of_canonical_lt hrest (by omega), cellAt_of_canonical_lt hrest' (by omega)]
      rw [hbyte, htail]

/-- Settles O53: below the length `readByte` is `byteAt`, so the two lists of cells read the same and are one list. -/
theorem canonicalSourcesAreEqualData : Obligations.CanonicalSourcesAreEqualData := by
  intro m n hm hn hlen hread
  have hcells : m.cells = n.cells := by
    refine cells_eq_of_canonical (hi := m.len.toNat) hm (hlen ▸ hn) fun x hx => ?_
    have h := hread x
    rw [Memory.readByte_of_lt hx, Memory.readByte_of_lt (hlen ▸ hx)] at h
    exact Option.some.inj h
  cases m
  cases n
  exact congrArg₂ Memory.mk hlen hcells

end Sys2Proof.Machine
end

section
/-! SUPPORT. Several hosts on the one port (20_memory.md R46, 60_exceptions.md R99): what every step keeps is, host by
host, the offsets read so far followed by the offsets the pending actions will read. -/

namespace Sys2Proof.Machine

/-! ### What a command leaves unchanged (R35) -/

/-- Settles O34: both ends of a command, and the cursor's advance, leave these fields alone. -/
theorem commandsKeepOperandsAndSources : Obligations.CommandsKeepOperandsAndSources := by
  intro i s t h
  obtain ⟨e, rfl⟩ | ⟨-, k, v, rfl⟩ | ⟨-, k, v, rfl⟩ := exec_cases h
  all_goals exact ⟨rfl, rfl, rfl, rfl, fun _ => rfl, fun _ => rfl, rfl, rfl⟩

/-! ### Which actions add to the values read -/

theorem executeCommand_reads {w : Word} {s t : State} (h : executeCommand w s = .next t) : t.reads = s.reads := by
  obtain ⟨e, rfl⟩ | ⟨i, k, v, -, rfl, -⟩ := executeCommand_cases h <;> rfl

theorem hostWrite_reads {offset : Nat} {v : Word} {s t : State} (h : hostWrite offset v s = .next t) :
    t.reads = s.reads := by
  obtain ⟨-, hexec⟩ | ⟨-, rfl⟩ | ⟨-, rfl⟩ | ⟨-, -, -, rfl⟩ := hostWrite_cases h
  · exact executeCommand_reads hexec
  all_goals rfl

/-- An action reads a register and records its value, or is no read and records nothing. -/
theorem perform_reads {e : HostEvent} {s t : State} (h : perform e s = .next t) :
    (∃ offset, e.action = .read 32 offset ∧ t = hostRead e.host offset s) ∨
      (readOffsets [e.action] = [] ∧ t.reads = s.reads) := by
  obtain ⟨offset, v, ha, hw⟩ | ⟨offset, ha, ht⟩ | ⟨bytes, ha, -, rfl⟩ | ⟨bytes, ha, -, rfl⟩ | ⟨ha, rfl⟩ :=
    perform_cases h
  · exact .inr ⟨ha ▸ rfl, hostWrite_reads hw⟩
  · exact .inl ⟨offset, ha, ht⟩
  all_goals exact .inr ⟨ha ▸ rfl, rfl⟩

/-! ### One host's share of a list of actions and of the values read -/

/-- Host `h`'s own actions, in the order they stand in. -/
def actionsOf (h : Nat) (events : List HostEvent) : List HostAction :=
  (events.filter fun e => e.host == h).map HostEvent.action

/-- The offsets host `h` has read at, the oldest first. -/
def State.offsetsReadBy (s : State) (h : Nat) : List Nat :=
  (s.reads.filter fun r => r.host == h).map ReadRecord.offset

theorem readOffsets_cons (a : HostAction) (as : List HostAction) :
    readOffsets (a :: as) = readOffsets [a] ++ readOffsets as := by
  cases a <;> rfl

theorem actionsOf_cons_self (e : HostEvent) (rest : List HostEvent) :
    actionsOf e.host (e :: rest) = e.action :: actionsOf e.host rest := by
  simp [actionsOf]

theorem actionsOf_cons_of_ne {e : HostEvent} {h : Nat} (hne : e.host ≠ h) (rest : List HostEvent) :
    actionsOf h (e :: rest) = actionsOf h rest := by
  simp [actionsOf, hne]

theorem offsetsReadBy_hostRead_self (h offset : Nat) (s : State) :
    (hostRead h offset s).offsetsReadBy h = s.offsetsReadBy h ++ [offset] := by
  simp [State.offsetsReadBy]

theorem offsetsReadBy_hostRead_of_ne {host h : Nat} (hne : host ≠ h) (offset : Nat) (s : State) :
    (hostRead host offset s).offsetsReadBy h = s.offsetsReadBy h := by
  simp [State.offsetsReadBy, hne]

theorem offsetsReadBy_of_reads {s t : State} (hr : t.reads = s.reads) (h : Nat) :
    t.offsetsReadBy h = s.offsetsReadBy h := by
  rw [State.offsetsReadBy, hr, State.offsetsReadBy]

/-- An action moves its own read, if it is one, from its host's pending actions to what that host has read. -/
theorem perform_offsetsReadBy {e : HostEvent} {s t : State} (hperf : perform e s = .next t) (h : Nat)
    (rest : List HostEvent) :
    t.offsetsReadBy h ++ readOffsets (actionsOf h rest) =
      s.offsetsReadBy h ++ readOffsets (actionsOf h (e :: rest)) := by
  by_cases hh : e.host = h
  · subst hh
    rw [actionsOf_cons_self, readOffsets_cons, ← List.append_assoc]
    obtain ⟨offset, ha, rfl⟩ | ⟨hnone, hreads⟩ := perform_reads hperf
    · rw [offsetsReadBy_hostRead_self, ha]
      rfl
    · rw [offsetsReadBy_of_reads hreads, hnone, List.append_nil]
  · rw [actionsOf_cons_of_ne hh]
    obtain ⟨offset, -, rfl⟩ | ⟨-, hreads⟩ := perform_reads hperf
    · rw [offsetsReadBy_hostRead_of_ne hh]
    · rw [offsetsReadBy_of_reads hreads]

/-! ### Steps and runs -/

/-- All the reads of host `h` that a state accounts for: those made, then those still pending. -/
def State.readsOfHost (s : State) (h : Nat) : List Nat :=
  s.offsetsReadBy h ++ readOffsets (actionsOf h s.pending)

theorem step_keeps_readsOfHost {s t : State} (hstep : step s = .next t) (h : Nat) :
    t.readsOfHost h = s.readsOfHost h := by
  obtain ⟨-, rfl⟩ | ⟨e, rest, hp, hperf⟩ := step_cases hstep
  · rfl
  · have hrest : t.pending = rest := perform_pending hperf
    rw [State.readsOfHost, State.readsOfHost, hrest, hp]
    exact perform_offsetsReadBy hperf h rest

theorem step_pending_tail {s t : State} (hstep : step s = .next t) : t.pending = s.pending.tail := by
  obtain ⟨hp, rfl⟩ | ⟨e, rest, hp, hperf⟩ := step_cases hstep
  · rw [hp, List.tail_nil]
  · rw [hp, perform_pending hperf, List.tail_cons]

/-- A run of `k` steps takes `k` actions off the list and keeps every host's reads accounted for. -/
theorem runSteps_readsOfHost {k : Nat} {s t : State} (hrun : runSteps k s = .next t) :
    t.pending = s.pending.drop k ∧ ∀ h, t.readsOfHost h = s.readsOfHost h := by
  induction k generalizing s with
  | zero =>
    cases Host.Outcome.next.inj hrun
    exact ⟨rfl, fun _ => rfl⟩
  | succ k ih =>
    obtain ⟨u, hstep, hrest⟩ := runSteps_succ_cases hrun
    obtain ⟨hdrop, hkept⟩ := ih hrest
    refine ⟨?_, fun h => (hkept h).trans (step_keeps_readsOfHost hstep h)⟩
    rw [hdrop, step_pending_tail hstep, List.drop_tail]

/-- Settles O56: at the start every read of a host's program is pending, at the end none is, and no step changes what is
made and pending together. -/
theorem hostsReadInProgramOrder : Obligations.HostsReadInProgramOrder := by
  intro programs s t hprograms hreads hrun h
  obtain ⟨hdrop, hkept⟩ := runSteps_readsOfHost hrun
  have hdone : t.pending = [] := hdrop.trans List.drop_length
  have hnone : s.offsetsReadBy h = [] := by rw [State.offsetsReadBy, hreads]; rfl
  have hown : actionsOf h s.pending = programs.getD h [] := hprograms h
  calc t.offsetsReadBy h = t.readsOfHost h := by rw [State.readsOfHost, hdone]; exact (List.append_nil _).symm
    _ = s.readsOfHost h := hkept h
    _ = readOffsets (programs.getD h []) := by rw [State.readsOfHost, hnone, hown, List.nil_append]

end Sys2Proof.Machine
end

section
/-! SUPPORT. The read primitives, their bounds and byte order (20_memory.md R36-R41), and what a command does when its
window is illegal or its bytes are not there. -/

namespace Sys2Proof.Machine

/-! ### The read primitives (R36, R37) -/

/-- Settles O12: below the length `readByte` is `byteAt`, which is what the primitives return. -/
theorem readPrimitivesAreBounded : Obligations.ReadPrimitivesAreBounded := by
  intro s a n _
  refine ⟨fun hle => ⟨_, State.bufRead_of_le hle, fun k => Memory.readByte_of_lt ?_⟩, State.bufRead_of_lt,
    fun hle => ⟨_, State.strRead_of_le hle, fun k => Memory.readByte_of_lt ?_⟩, State.strRead_of_lt⟩
  all_goals exact (Nat.add_lt_add_left k.isLt a).trans_le hle

theorem State.bufRead_eq_error_iff {s : State} {a n : Nat} :
    s.bufRead a n = .error .rangeError ↔ s.buf.len.toNat < a + n := by
  refine ⟨fun herr => ?_, State.bufRead_of_lt⟩
  by_contra hlt
  exact nomatch (State.bufRead_of_le (Nat.le_of_not_lt hlt)).symm.trans herr

theorem State.strRead_eq_error_iff {s : State} {a n : Nat} :
    s.strRead a n = .error .endOfSource ↔ s.str.len.toNat < a + n := by
  refine ⟨fun herr => ?_, State.strRead_of_lt⟩
  by_contra hlt
  exact nomatch (State.strRead_of_le (Nat.le_of_not_lt hlt)).symm.trans herr

/-! ### Byte order (R39-R41) -/

/-- Settles O13: `be16` is the concatenation of the two bytes. -/
theorem pairIsBigEndian : Obligations.PairIsBigEndian :=
  fun b0 b1 => ⟨be16_toNat b0 b1, BitVec.extractLsb'_append_eq_left, BitVec.extractLsb'_append_eq_right⟩

theorem ipv4Word_octets (o0 o1 o2 o3 : Byte) :
    (ipv4Word o0 o1 o2 o3).extractLsb' 24 8 = o0 ∧ (ipv4Word o0 o1 o2 o3).extractLsb' 16 8 = o1 ∧
      (ipv4Word o0 o1 o2 o3).extractLsb' 8 8 = o2 ∧ (ipv4Word o0 o1 o2 o3).extractLsb' 0 8 = o3 := by
  have hdrop3 : ∀ n, 8 ≤ n → (ipv4Word o0 o1 o2 o3).extractLsb' n 8 = (o0 ++ o1 ++ o2).extractLsb' (n - 8) 8 :=
    fun n hn => BitVec.extractLsb'_append_eq_of_le hn
  have hdrop2 : ∀ n, 8 ≤ n → (o0 ++ o1 ++ o2).extractLsb' n 8 = (o0 ++ o1).extractLsb' (n - 8) 8 :=
    fun n hn => BitVec.extractLsb'_append_eq_of_le hn
  refine ⟨?_, ?_, ?_, BitVec.extractLsb'_append_eq_right⟩
  · rw [hdrop3 24 (by decide), hdrop2 16 (by decide)]
    exact BitVec.extractLsb'_append_eq_left
  · rw [hdrop3 16 (by decide), hdrop2 8 (by decide)]
    exact BitVec.extractLsb'_append_eq_right
  · rw [hdrop3 8 (by decide)]
    exact BitVec.extractLsb'_append_eq_right

/-- The four bytes from `a` on, where they exist, are the octets of their `ipv4Word`. -/
theorem ipv4Word_readByte {m : Memory} {a : Nat} (h : a + 4 ≤ m.len.toNat) {w : Word}
    (hw : w = ipv4Word (m.byteAt a) (m.byteAt (a + 1)) (m.byteAt (a + 2)) (m.byteAt (a + 3))) :
    some (w.extractLsb' 24 8) = m.readByte a ∧ some (w.extractLsb' 16 8) = m.readByte (a + 1) ∧
      some (w.extractLsb' 8 8) = m.readByte (a + 2) ∧ some (w.extractLsb' 0 8) = m.readByte (a + 3) := by
  obtain ⟨h0, h1, h2, h3⟩ := ipv4Word_octets (m.byteAt a) (m.byteAt (a + 1)) (m.byteAt (a + 2)) (m.byteAt (a + 3))
  rw [hw, h0, h1, h2, h3]
  refine ⟨?_, ?_, ?_, ?_⟩ <;> exact (Memory.readByte_of_lt (by omega)).symm

theorem exec_brdipv4_of_le {s : State} (h : s.opnd.toNat + 4 ≤ s.buf.len.toNat) :
    exec .brdipv4 s = .next (s.complete .ipv4 (ipv4Word (s.buf.byteAt s.opnd.toNat) (s.buf.byteAt (s.opnd.toNat + 1))
      (s.buf.byteAt (s.opnd.toNat + 2)) (s.buf.byteAt (s.opnd.toNat + 3)))) := by
  simp only [exec, execBrdipv4, State.bufferOffset, State.bufRead_of_le h]
  rfl

theorem exec_srdipv4_of_le {s : State} (h : s.pos.toNat + 4 ≤ s.str.len.toNat) :
    exec .srdipv4 s = .next ((s.advance 4).complete .ipv4 (ipv4Word (s.str.byteAt s.pos.toNat)
      (s.str.byteAt (s.pos.toNat + 1)) (s.str.byteAt (s.pos.toNat + 2)) (s.str.byteAt (s.pos.toNat + 3)))) := by
  simp only [exec, execSrdipv4, State.cursor, State.strRead_of_le h]
  rfl

/-- Settles O14: RESULT is the `ipv4Word` of the four bytes. -/
theorem ipv4OctetsAreVerbatim : Obligations.Ipv4OctetsAreVerbatim :=
  ⟨fun _ h => ⟨_, exec_brdipv4_of_le h, ipv4Word_readByte h rfl⟩,
    fun _ h => ⟨_, exec_srdipv4_of_le h, ipv4Word_readByte h rfl⟩⟩

/-! ### What a command does when a check fails -/

theorem windowCheck_of_windowLegal {W p l : Nat} (h : (decide (1 ≤ l) && decide (p + l ≤ W)) = true) :
    windowCheck W p l = .ok () := by
  simp only [Bool.and_eq_true, decide_eq_true_eq] at h
  obtain ⟨hl, hp⟩ := h
  exact windowCheck_of_legal hl hp

theorem windowCheck_of_not_windowLegal {W p l : Nat} (h : (decide (1 ≤ l) && decide (p + l ≤ W)) = false) :
    windowCheck W p l = .error .rangeError := by
  simp only [Bool.and_eq_false_iff, decide_eq_false_iff_not] at h
  exact windowCheck_of_illegal (by omega)

/-- The window check comes first, so an illegal window raises RangeError whatever the source holds (R91, R94). -/
theorem exec_of_illegal_window {i : Instr} {s : State} (h : windowLegal i = false) :
    exec i s = .next (s.raise .rangeError) := by
  cases i with
  | brdbits p l => simp [exec, execBrdbits, windowCheck_of_not_windowLegal h]
  | xbits p l => simp [exec, execXbits, windowCheck_of_not_windowLegal h]
  | brdu16bits p l => simp [exec, execBrdu16bits, windowCheck_of_not_windowLegal h]
  | speekbits p l => simp [exec, execSpeekbits, windowCheck_of_not_windowLegal h]
  | sconsumebits p l => simp [exec, execSconsumebits, windowCheck_of_not_windowLegal h]
  | srdu16bits p l => simp [exec, execSrdu16bits, windowCheck_of_not_windowLegal h]
  | brdu16 | brdipv4 | speek | srdu16 | srdipv4 => cases h

/-- A buffer command with a legal window, whose bytes are not all there, raises RangeError (R91). -/
theorem exec_of_short_buffer {i : Instr} {s : State} (hi : sourceUse i = .buffer) (hw : windowLegal i = true)
    (h : s.buf.len.toNat < s.opnd.toNat + bytesRead i) : exec i s = .next (s.raise .rangeError) := by
  have hshort : s.buf.len.toNat < s.bufferOffset + bytesRead i := h
  cases i with
  | brdbits p l => simp [exec, execBrdbits, windowCheck_of_windowLegal hw, State.bufRead_of_lt (n := 1) hshort]
  | brdu16bits p l => simp [exec, execBrdu16bits, windowCheck_of_windowLegal hw, State.bufRead_of_lt (n := 2) hshort]
  | brdu16 => simp [exec, execBrdu16, State.bufRead_of_lt (n := 2) hshort]
  | brdipv4 => simp [exec, execBrdipv4, State.bufRead_of_lt (n := 4) hshort]
  | xbits | speek | speekbits | sconsumebits | srdu16 | srdu16bits | srdipv4 => cases hi

/-- A stream command with a legal window, whose bytes are not all there, raises EndOfSource (R92). -/
theorem exec_of_short_stream {i : Instr} {s : State} (hi : sourceUse i = .stream) (hw : windowLegal i = true)
    (h : s.str.len.toNat < s.pos.toNat + bytesRead i) : exec i s = .next (s.raise .endOfSource) := by
  have hshort : s.str.len.toNat < s.cursor + bytesRead i := h
  cases i with
  | speek => simp [exec, execSpeek, State.strRead_of_lt (n := 1) hshort]
  | speekbits p l => simp [exec, execSpeekbits, windowCheck_of_windowLegal hw, State.strRead_of_lt (n := 1) hshort]
  | sconsumebits p l =>
    simp [exec, execSconsumebits, windowCheck_of_windowLegal hw, State.strRead_of_lt (n := 1) hshort]
  | srdu16 => simp [exec, execSrdu16, State.strRead_of_lt (n := 2) hshort]
  | srdu16bits p l => simp [exec, execSrdu16bits, windowCheck_of_windowLegal hw, State.strRead_of_lt (n := 2) hshort]
  | srdipv4 => simp [exec, execSrdipv4, State.strRead_of_lt (n := 4) hshort]
  | brdbits | xbits | brdu16bits | brdu16 | brdipv4 => cases hi

/-- A buffer command without its bytes raises RangeError, whatever its window. -/
theorem exec_buffer_of_short {i : Instr} {s : State} (hi : sourceUse i = .buffer)
    (h : s.buf.len.toNat < s.opnd.toNat + bytesRead i) : exec i s = .next (s.raise .rangeError) := by
  cases hw : windowLegal i with
  | false => exact exec_of_illegal_window hw
  | true => exact exec_of_short_buffer hi hw h

/-- A stream command without its bytes raises RangeError or EndOfSource, by its window. -/
theorem exec_stream_of_short {i : Instr} {s : State} (hi : sourceUse i = .stream)
    (h : s.str.len.toNat < s.pos.toNat + bytesRead i) : ∃ e, exec i s = .next (s.raise e) := by
  cases hw : windowLegal i with
  | false => exact ⟨_, exec_of_illegal_window hw⟩
  | true => exact ⟨_, exec_of_short_stream hi hw h⟩

/-! ### What a successful command has read (R38) -/

theorem statusErr_ne_zero_of_raise {o : Host.Outcome State Fault Refusal} {s t : State} {e : ErrorKind}
    (hraise : o = .next (s.raise e)) (h : o = .next t) : statusErr t.status ≠ 0 := by
  cases Host.Outcome.next.inj (hraise.symm.trans h)
  exact statusErr_errorStatus_ne_zero e

theorem buffer_bytes_exist_of_success {i : Instr} {s t : State} (hi : sourceUse i = .buffer) (h : exec i s = .next t)
    (hok : statusErr t.status = 0) : s.opnd.toNat + bytesRead i ≤ s.buf.len.toNat := by
  by_contra hlt
  exact statusErr_ne_zero_of_raise (exec_buffer_of_short hi (Nat.lt_of_not_le hlt)) h hok

theorem stream_bytes_exist_of_success {i : Instr} {s t : State} (hi : sourceUse i = .stream) (h : exec i s = .next t)
    (hok : statusErr t.status = 0) : s.pos.toNat + bytesRead i ≤ s.str.len.toNat := by
  by_contra hlt
  obtain ⟨e, hraise⟩ := exec_stream_of_short hi (Nat.lt_of_not_le hlt)
  exact statusErr_ne_zero_of_raise hraise h hok

theorem bytesRead_pos_of_buffer {i : Instr} (hi : sourceUse i = .buffer) : 0 < bytesRead i := by
  cases i with
  | brdbits | brdu16bits | brdu16 | brdipv4 => exact Nat.succ_pos _
  | xbits | speek | speekbits | sconsumebits | srdu16 | srdu16bits | srdipv4 => cases hi

/-- A command consumes no more bytes than it reads (R43). -/
theorem posChange_le_bytesRead (i : Instr) : posChange i ≤ bytesRead i := by
  cases i <;> simp [posChange, bytesRead]

/-- A successful command moves POS by its own change, which is 0 for most. -/
theorem exec_pos_of_success {i : Instr} {s t : State} (h : exec i s = .next t) (hok : statusErr t.status = 0) :
    t.pos = (s.advance (posChange i)).pos := by
  obtain ⟨k, r, hexec, -, -⟩ := exec_finish i s
  obtain ⟨v, -, rfl⟩ | ⟨e, -, rfl⟩ := State.deliverConsuming_cases (hexec ▸ h)
  · exact State.complete_pos _ k v
  · exact absurd hok (statusErr_errorStatus_ne_zero e)

/-- Settles O33: sums are natural numbers, and a length is below 2^32. -/
theorem boundsArithmeticNeverWraps : Obligations.BoundsArithmeticNeverWraps := by
  refine ⟨fun s a n => State.bufRead_eq_error_iff, fun s a n => State.strRead_eq_error_iff, ?_, ?_, ?_⟩
  · intro i s hi hopnd
    have hlen := s.buf.len.isLt
    have hpos := bytesRead_pos_of_buffer hi
    have hlast : s.opnd.toNat = 2 ^ 32 - 1 := by rw [hopnd]; rfl
    exact exec_buffer_of_short hi (by omega)
  · intro i s t hi h hok
    have hlen := s.buf.len.isLt
    have hbytes := buffer_bytes_exist_of_success hi h hok
    exact ⟨hbytes, by omega⟩
  · intro i s t hi h hok
    have hlen := s.str.len.isLt
    have hbytes := stream_bytes_exist_of_success hi h hok
    have hchange := posChange_le_bytesRead i
    have hmoved : t.pos.toNat = s.pos.toNat + posChange i := by
      rw [exec_pos_of_success h hok]
      exact State.advance_pos_toNat (by omega)
    exact ⟨by omega, hmoved, by omega⟩

end Sys2Proof.Machine
end

section
/-! SUPPORT. The decoder as the table of R54, the fields of a command word, and the encoder row by row (30_encoding.md
R50-R54). -/

namespace Sys2Proof

/-! ### The table of R54 -/

theorem DecodeRow.hits_iff {r : DecodeRow} {w : Word} : r.hits w = true ↔ w &&& r.mask = r.pattern := beq_iff_eq

/-- Every mask covers OP and ADV, and every match is a value of those two fields alone. -/
theorem opAdv_of_row : ∀ r ∈ decodeRows, r.mask &&& 0xF8000000#32 = 0xF8000000#32 ∧
    r.pattern &&& 0xF8000000#32 = r.pattern := by
  decide

/-- A word that matches a row has the row's OP and ADV. -/
theorem opAdv_of_match {r : DecodeRow} {w : Word} (hr : r ∈ decodeRows) (h : w &&& r.mask = r.pattern) :
    w &&& 0xF8000000#32 = r.pattern := by
  obtain ⟨hmask, hpattern⟩ := opAdv_of_row r hr
  rw [← hmask, ← BitVec.and_assoc, h, hpattern]

theorem patterns_nodup : (decodeRows.map DecodeRow.pattern).Nodup := by decide

/-- No word matches two rows. -/
theorem row_unique {r r' : DecodeRow} {w : Word} (hr : r ∈ decodeRows) (hr' : r' ∈ decodeRows)
    (h : w &&& r.mask = r.pattern) (h' : w &&& r'.mask = r'.pattern) : r = r' :=
  List.inj_on_of_nodup_map patterns_nodup hr hr' ((opAdv_of_match hr h).symm.trans (opAdv_of_match hr' h'))

/-- R54: a word decodes to a command exactly when it matches a row and the row builds that command from its fields. -/
theorem decode_eq_ok_iff {w : Word} {i : Instr} :
    decode w = .ok i ↔ ∃ r ∈ decodeRows, w &&& r.mask = r.pattern ∧ r.build (bposField w) (blenField w) = i := by
  unfold decode
  cases hfind : decodeRows.find? (·.hits w) with
  | none =>
    have hno := List.find?_eq_none.1 hfind
    constructor
    · exact fun h => nomatch h
    · exact fun ⟨r, hr, hw, _⟩ => absurd (DecodeRow.hits_iff.2 hw) (hno r hr)
  | some r =>
    have hr := List.mem_of_find?_eq_some hfind
    have hw := DecodeRow.hits_iff.1 (List.find?_some (p := fun r => DecodeRow.hits r w) hfind)
    constructor
    · exact fun h => ⟨r, hr, hw, Except.ok.inj h⟩
    · rintro ⟨r', hr', hw', rfl⟩
      rw [row_unique hr hr' hw hw']

/-! ### The fields of a word -/

/-- A word with the window `p`, `l` beside the bits of `m`. -/
def windowWord (m : Word) (p l : Nat) : Word := m ||| (BitVec.ofNat 32 p <<< 22) ||| (BitVec.ofNat 32 l <<< 17)

theorem bposFits_bposField (w : Word) : bposFits (bposField w) = true := decide_eq_true (w.extractLsb' 22 5).isLt
theorem blenFits_blenField (w : Word) : blenFits (blenField w) = true := decide_eq_true (w.extractLsb' 17 5).isLt

/-- The mask of a windowed row covers every bit but those of BPOS and BLEN. -/
theorem windowMask_getLsbD {k : Nat} (hk : k < 32) : (0xF801FFFF#32).getLsbD k = decide (k < 17 ∨ 27 ≤ k) := by
  have h : ∀ k : Fin 32, (0xF801FFFF#32).getLsbD k = decide (k.val < 17 ∨ 27 ≤ k.val) := by decide
  exact h ⟨k, hk⟩

/-- A 5-bit field of a word, put back where it was, is the word's bits there and no others. -/
theorem getLsbD_field_shiftLeft (w : Word) (n : Nat) {k : Nat} (hk : k < 32) :
    (BitVec.ofNat 32 (w.extractLsb' n 5).toNat <<< n).getLsbD k = (decide (n ≤ k ∧ k < n + 5) && w.getLsbD k) := by
  simp only [BitVec.ofNat_toNat, BitVec.getLsbD_shiftLeft, BitVec.getLsbD_setWidth, BitVec.getLsbD_extractLsb', hk]
  by_cases hn : n ≤ k
  · have hin : k - n < 32 := by omega
    have hfive : k - n < 5 ↔ k < n + 5 := by omega
    simp [hn, hin, hfive, Nat.not_lt.2 hn]
  · simp [hn, Nat.lt_of_not_le hn]

/-- A word is its bits outside the window, and its window. -/
theorem windowWord_fields (w : Word) : windowWord (w &&& 0xF801FFFF#32) (bposField w) (blenField w) = w := by
  apply BitVec.eq_of_getLsbD_eq
  intro k hk
  simp only [windowWord, bposField, blenField, BitVec.getLsbD_or, BitVec.getLsbD_and, windowMask_getLsbD hk,
    getLsbD_field_shiftLeft w _ hk]
  cases w.getLsbD k with
  | false => simp
  | true =>
    simp only [Bool.true_and, Bool.and_true, ← Bool.decide_or, decide_eq_true_eq]
    omega

/-- A window field shifted into its place is read back there, and the other field reads 0. -/
theorem window_fields {p l : Nat} (hp : p < 32) (hl : l < 32) :
    ((BitVec.ofNat 32 p <<< 22).extractLsb' 22 5 = BitVec.ofNat 5 p ∧
      (BitVec.ofNat 32 p <<< 22).extractLsb' 17 5 = 0) ∧
    (BitVec.ofNat 32 l <<< 17).extractLsb' 22 5 = 0 ∧
      (BitVec.ofNat 32 l <<< 17).extractLsb' 17 5 = BitVec.ofNat 5 l := by
  have h : ∀ x : Fin 32, ((BitVec.ofNat 32 x <<< 22).extractLsb' 22 5 = BitVec.ofNat 5 x ∧
        (BitVec.ofNat 32 x <<< 22).extractLsb' 17 5 = 0) ∧
      (BitVec.ofNat 32 x <<< 17).extractLsb' 22 5 = 0 ∧
        (BitVec.ofNat 32 x <<< 17).extractLsb' 17 5 = BitVec.ofNat 5 x := by
    decide
  exact ⟨(h ⟨p, hp⟩).1, (h ⟨l, hl⟩).2⟩

/-- A match has no bit in the window, and lies inside its mask. -/
theorem pattern_of_row : ∀ r ∈ decodeRows, r.pattern &&& r.mask = r.pattern ∧ r.pattern.extractLsb' 22 5 = 0 ∧
    r.pattern.extractLsb' 17 5 = 0 := by
  decide

theorem bposField_windowWord {m : Word} {p l : Nat} (hm : m.extractLsb' 22 5 = 0) (hp : p < 32) (hl : l < 32) :
    bposField (windowWord m p l) = p := by
  obtain ⟨⟨hpp, -⟩, hlp, -⟩ := window_fields hp hl
  simpa [bposField, windowWord, BitVec.extractLsb'_or, hm, hpp, hlp] using hp

theorem blenField_windowWord {m : Word} {p l : Nat} (hm : m.extractLsb' 17 5 = 0) (hp : p < 32) (hl : l < 32) :
    blenField (windowWord m p l) = l := by
  obtain ⟨⟨-, hpl⟩, -, hll⟩ := window_fields hp hl
  simpa [blenField, windowWord, BitVec.extractLsb'_or, hm, hpl, hll] using hl

/-- A row whose command takes a window: the command encodes as the match with the window put in. -/
def DecodeRow.Windowed (r : DecodeRow) : Prop :=
  r.mask = 0xF801FFFF#32 ∧ ∀ p l, encode (r.build p l) = windowWord r.pattern p l ∧
    (r.build p l).wf = (bposFits p && blenFits l)

/-- A row whose command takes no window: the command encodes as the match. -/
def DecodeRow.Windowless (r : DecodeRow) : Prop :=
  r.mask = 0xFFFFFFFF#32 ∧ ∃ i, (∀ p l, r.build p l = i) ∧ encode i = r.pattern ∧ i.wf = true

theorem windowed_or_windowless {r : DecodeRow} (hr : r ∈ decodeRows) : r.Windowed ∨ r.Windowless := by
  simp only [decodeRows, List.mem_cons, List.not_mem_nil, or_false] at hr
  obtain rfl | rfl | rfl | rfl | rfl | rfl | rfl | rfl | rfl | rfl | rfl := hr
  · exact .inl ⟨rfl, fun _ _ => ⟨rfl, rfl⟩⟩
  · exact .inl ⟨rfl, fun _ _ => ⟨rfl, rfl⟩⟩
  · exact .inl ⟨rfl, fun _ _ => ⟨rfl, rfl⟩⟩
  · exact .inr ⟨rfl, _, fun _ _ => rfl, rfl, rfl⟩
  · exact .inr ⟨rfl, _, fun _ _ => rfl, rfl, rfl⟩
  · exact .inr ⟨rfl, _, fun _ _ => rfl, rfl, rfl⟩
  · exact .inl ⟨rfl, fun _ _ => ⟨rfl, rfl⟩⟩
  · exact .inl ⟨rfl, fun _ _ => ⟨rfl, rfl⟩⟩
  · exact .inr ⟨rfl, _, fun _ _ => rfl, rfl, rfl⟩
  · exact .inl ⟨rfl, fun _ _ => ⟨rfl, rfl⟩⟩
  · exact .inr ⟨rfl, _, fun _ _ => rfl, rfl, rfl⟩

theorem exists_row (i : Instr) : ∃ r ∈ decodeRows, ∃ p l, r.build p l = i := by
  cases i <;> simp [decodeRows]

theorem windowWord_masked {r : DecodeRow} (hr : r ∈ decodeRows) (hmask : r.mask = 0xF801FFFF#32) {p l : Nat}
    (hp : p < 32) (hl : l < 32) : windowWord r.pattern p l &&& r.mask = r.pattern := by
  obtain ⟨hpattern, -, -⟩ := pattern_of_row r hr
  obtain ⟨hp0, hl0⟩ := Laws.window_bits_masked hp hl
  rw [hmask] at hpattern ⊢
  simp [windowWord, BitVec.and_or_distrib_right, hpattern, hp0, hl0]

theorem decode_windowWord {r : DecodeRow} (hr : r ∈ decodeRows) (hmask : r.mask = 0xF801FFFF#32) {p l : Nat}
    (hp : p < 32) (hl : l < 32) : decode (windowWord r.pattern p l) = .ok (r.build p l) := by
  obtain ⟨-, hbpos, hblen⟩ := pattern_of_row r hr
  refine decode_eq_ok_iff.2 ⟨r, hr, windowWord_masked hr hmask hp hl, ?_⟩
  rw [bposField_windowWord hbpos hp hl, blenField_windowWord hblen hp hl]

end Sys2Proof
end

section
/-! SUPPORT. The obligations about encoding: the round trips, the table, malformed words and the assembler. -/

namespace Sys2Proof.Machine

/-! ### The two round trips -/

/-- Settles O1, by the row that builds the command: its word matches that row, and the fields are read back. -/
theorem decodeOfEncodeIsIdentity : Obligations.DecodeOfEncodeIsIdentity := by
  intro i hwf
  obtain ⟨r, hr, p, l, rfl⟩ := exists_row i
  obtain ⟨hmask, hbuild⟩ | ⟨-, i, hconst, henc, -⟩ := windowed_or_windowless hr
  · obtain ⟨henc, hfits⟩ := hbuild p l
    obtain ⟨hp, hl⟩ := Laws.fields_fit (hfits ▸ hwf)
    rw [henc]
    exact decode_windowWord hr hmask hp hl
  · obtain ⟨hpattern, -, -⟩ := pattern_of_row r hr
    rw [hconst, henc]
    exact decode_eq_ok_iff.2 ⟨r, hr, hpattern, hconst _ _⟩

/-- Settles O2, by the row the word matches: outside the window the word is the match, inside it the two fields. -/
theorem encodeOfDecodeIsIdentity : Obligations.EncodeOfDecodeIsIdentity := by
  intro w i hdecode
  obtain ⟨r, hr, hw, rfl⟩ := decode_eq_ok_iff.1 hdecode
  obtain ⟨hmask, hbuild⟩ | ⟨hmask, i, hconst, henc, hwf⟩ := windowed_or_windowless hr
  · obtain ⟨henc, hfits⟩ := hbuild (bposField w) (blenField w)
    constructor
    · rw [hfits, bposFits_bposField, blenFits_blenField, Bool.and_self]
    · rw [henc, ← hw, hmask]
      exact windowWord_fields w
  · rw [hconst]
    refine ⟨hwf, ?_⟩
    calc encode i = w &&& r.mask := henc.trans hw.symm
      _ = w := by rw [hmask]; exact BitVec.and_allOnes

/-! ### The table and the words that are not in it -/

/-- A word that matches no row raises IllegalCommand. -/
theorem executeCommand_of_no_row {w : Word} (h : ∀ r ∈ decodeRows, w &&& r.mask ≠ r.pattern) (s : State) :
    executeCommand w s = .next { s with cmd := w, status := 3 } := by
  cases hd : decode w with
  | error x => exact executeCommand_of_error hd s
  | ok i =>
    obtain ⟨r, hr, hw, -⟩ := decode_eq_ok_iff.1 hd
    exact absurd hw (h r hr)

/-- Settles O4: a word's OP and ADV are the match of the row it matches, and the matches differ. -/
theorem decoderFollowsMatchTable : Obligations.DecoderFollowsMatchTable := by
  refine ⟨fun _ _ => rfl, fun w => ?_, fun w r hr hw s => ?_, fun w h s => executeCommand_of_no_row h s⟩
  · exact (List.Nodup.of_map _ patterns_nodup).pairwise_of_forall_ne
      fun r hr r' hr' hne ⟨h, h'⟩ => hne (row_unique hr hr' h h')
  · exact executeCommand_of_ok (decode_eq_ok_iff.2 ⟨r, hr, hw, rfl⟩) s

/-- Where a mask covers a field, a word that matches has the field of the match. -/
theorem field_of_match {w mask pattern : Word} (h : w &&& mask = pattern) {start len : Nat}
    (hmask : mask.extractLsb' start len = BitVec.allOnes len) :
    w.extractLsb' start len = pattern.extractLsb' start len := by
  rw [← h, BitVec.extractLsb'_and, hmask, BitVec.and_allOnes]

/-- Every mask covers OP, ADV and RSVD, and that of a windowless OP the window too. -/
theorem mask_covers_of_row : ∀ r ∈ decodeRows, r.mask.extractLsb' 28 4 = BitVec.allOnes 4 ∧ r.mask.getLsbD 27 = true ∧
    r.mask.extractLsb' 0 17 = BitVec.allOnes 17 ∧
    ((r.pattern.extractLsb' 28 4).toNat ∈ [4, 5, 6, 8, 0xA] →
      r.mask.extractLsb' 22 5 = BitVec.allOnes 5 ∧ r.mask.extractLsb' 17 5 = BitVec.allOnes 5) := by
  decide

/-- No match has a reserved OP, a stray ADV or a bit of RSVD. -/
theorem pattern_fields_of_row : ∀ r ∈ decodeRows,
    r.pattern.extractLsb' 28 4 ≠ 0 ∧ (r.pattern.extractLsb' 28 4).toNat < 0xB ∧
    (r.pattern.getLsbD 27 = true → r.pattern.extractLsb' 28 4 = 7) ∧ r.pattern.extractLsb' 0 17 = 0 := by
  decide

/-- Settles O5: a word that matched a row would have the row's OP, ADV and RSVD, and no window on a windowless OP. -/
theorem malformedWordsRaiseIllegalCommand : Obligations.MalformedWordsRaiseIllegalCommand := by
  intro w s hbad
  refine executeCommand_of_no_row (fun r hr hw => ?_) s
  obtain ⟨hmop, hmadv, hmrsvd, hmwindow⟩ := mask_covers_of_row r hr
  obtain ⟨hop0, hopB, hadv7, hrsvd0⟩ := pattern_fields_of_row r hr
  obtain ⟨-, hbpos0, hblen0⟩ := pattern_of_row r hr
  have hadv : w.getLsbD 27 = r.pattern.getLsbD 27 := by rw [← hw, BitVec.getLsbD_and, hmadv, Bool.and_true]
  rw [field_of_match hw hmop, field_of_match hw hmrsvd, hadv] at hbad
  obtain (h0 | hB) | ⟨h27, h7⟩ | ⟨hless, hwindow⟩ | hrsvd := hbad
  · exact hop0 h0
  · omega
  · exact h7 (hadv7 h27)
  · obtain ⟨hmbpos, hmblen⟩ := hmwindow hless
    rw [field_of_match hw hmbpos, field_of_match hw hmblen] at hwindow
    exact hwindow.elim (· hbpos0) (· hblen0)
  · exact hrsvd hrsvd0

/-! ### The assembler -/

/-- R66: the window of the whole value is the value. -/
theorem extractBits_whole (W : Nat) (v : BitVec W) : extractBits W v 0 W = v := by
  simp [extractBits]

/-- Settles O7: the windows 0, 8 and 0, 16 are legal and extract the whole byte and the whole pair. -/
theorem pseudoInstructionsExpand : Obligations.PseudoInstructionsExpand := by
  have hbyte : windowCheck 8 0 8 = .ok () := windowCheck_of_legal (by decide) (by decide)
  have hpair : windowCheck 16 0 16 = .ok () := windowCheck_of_legal (by decide) (by decide)
  refine ⟨rfl, rfl, rfl, rfl, fun s h => ?_, fun s h => ?_, fun s => ?_, fun s => ?_⟩
  · simp only [exec, execBrdbits, hbyte, State.bufferOffset, State.bufRead_of_le h, extractBits_whole]
    rfl
  · simp only [exec, execSconsumebits, hbyte, State.cursor, State.strRead_of_le h, extractBits_whole]
    rfl
  · simp only [exec, execSpeekbits, execSpeek, hbyte, extractBits_whole, except_ok_bind]
  · simp only [exec, execBrdu16bits, execBrdu16, hpair, extractBits_whole, except_ok_bind]

theorem asmOperand_of_le {x : Nat} (h : x ≤ 31) : asmOperand x = some x := if_pos (by omega)

theorem asmOperand_of_outside {x : Int} (h : x < 0 ∨ 31 < x) : asmOperand x = none := if_neg (by omega)

theorem asmWindowed_of_le (op : Nat → Nat → Instr) {p l : Nat} (hp : p ≤ 31) (hl : l ≤ 31) :
    asmWindowed op p l = some (op p l) := by
  rw [asmWindowed, asmOperand_of_le hp, asmOperand_of_le hl]

theorem asmWindowed_of_outside (op : Nat → Nat → Instr) {p l : Int} (h : p < 0 ∨ 31 < p ∨ l < 0 ∨ 31 < l) :
    asmWindowed op p l = none := by
  rw [asmWindowed]
  obtain hp | hl : (p < 0 ∨ 31 < p) ∨ (l < 0 ∨ 31 < l) := by omega
  · rw [asmOperand_of_outside hp]
  · rw [asmOperand_of_outside hl]
    cases asmOperand p <;> rfl

/-- A line that goes through `asmWindowed` to a command of a windowed row is that command's word, or refused. -/
theorem assemble_windowed {line : Int → Int → AsmLine} {op : Nat → Nat → Instr} {m : Word}
    (hline : ∀ p l, assemble (line p l) = (asmWindowed op p l).map fun i => cmdWrite (encode i))
    (hrow : ⟨m, 0xF801FFFF, op⟩ ∈ decodeRows) (henc : ∀ p l, encode (op p l) = windowWord m p l) :
    (∀ p l : Nat, p ≤ 31 → l ≤ 31 → assemble (line p l) = some (cmdWrite (windowWord m p l)) ∧
      decode (windowWord m p l) = .ok (op p l)) ∧
    (∀ p l : Int, p < 0 ∨ 31 < p ∨ l < 0 ∨ 31 < l → assemble (line p l) = none) := by
  refine ⟨fun p l hp hl => ⟨?_, ?_⟩, fun p l h => ?_⟩
  · rw [hline, asmWindowed_of_le op hp hl, Option.map_some, henc]
  · exact decode_windowWord hrow rfl (Nat.lt_succ_of_le hp) (Nat.lt_succ_of_le hl)
  · rw [hline, asmWindowed_of_outside op h, Option.map_none]

/-- Settles O8: every windowed line is `asmWindowed` of the command of its row. -/
theorem assemblerEncodesLines : Obligations.AssemblerEncodesLines := by
  refine ⟨fun line op m h => ?_, rfl, rfl, rfl, rfl, rfl, fun _ => rfl, fun _ => rfl, fun _ => rfl, fun _ => rfl,
    fun _ => rfl⟩
  simp only [List.mem_cons, List.not_mem_nil, or_false, Prod.mk.injEq] at h
  obtain ⟨rfl, rfl, rfl⟩ | ⟨rfl, rfl, rfl⟩ | ⟨rfl, rfl, rfl⟩ | ⟨rfl, rfl, rfl⟩ | ⟨rfl, rfl, rfl⟩ | ⟨rfl, rfl, rfl⟩ := h
  all_goals exact assemble_windowed (fun _ _ => rfl) (by simp [decodeRows]) (fun _ _ => rfl)

end Sys2Proof.Machine
end

section
/-! SUPPORT. The obligations about the shared bit-field algorithm and XBITS (40_bitfield_core.md). -/

namespace Sys2Proof.Machine

/-! ### The window check (R63) -/

theorem windowCheck_eq_ok_iff {W p l : Nat} : windowCheck W p l = .ok () ↔ 1 ≤ l ∧ p + l ≤ W := by
  constructor
  · intro h
    by_contra hbad
    exact nomatch (windowCheck_of_illegal (by omega)).symm.trans h
  · exact fun ⟨hl, hp⟩ => windowCheck_of_legal hl hp

theorem windowCheck_eq_error_iff {W p l : Nat} : windowCheck W p l = .error .rangeError ↔ l = 0 ∨ W < p + l := by
  constructor
  · intro h
    by_contra hgood
    exact nomatch (windowCheck_of_legal (by omega) (by omega)).symm.trans h
  · exact windowCheck_of_illegal

/-- Settles O9: the check has two answers, and a window that ends inside the value starts inside it. -/
theorem windowCheckAcceptsExactlyLegalWindows : Obligations.WindowCheckAcceptsExactlyLegalWindows := by
  intro W p l _
  refine ⟨windowCheck_eq_error_iff, windowCheck_eq_ok_iff, fun h => ?_⟩
  obtain ⟨hl, hp⟩ := windowCheck_eq_ok_iff.1 h
  omega

/-! ### The extraction (R64-R67) -/

/-- The mask clears the `p` bits above the window, and the shift drops those below it: bit `k` is the value's own. -/
theorem getLsbD_extractBits {W p l : Nat} (v : BitVec W) (h : p + l ≤ W) (k : Nat) :
    (extractBits W v p l).getLsbD k = (decide (k < l) && v.getLsbD (W - p - l + k)) := by
  have hmask : p + (W - p - l + k) < W ↔ k < l := by omega
  simp only [extractBits, BitVec.getLsbD_ushiftRight, BitVec.getLsbD_and, BitVec.getLsbD_allOnes, hmask]

/-- R65, slice form. -/
theorem extractBits_eq_slice {W p l : Nat} (v : BitVec W) (h : p + l ≤ W) :
    extractBits W v p l = (v.extractLsb' (W - p - l) l).setWidth W := by
  apply BitVec.eq_of_getLsbD_eq
  intro k hk
  simp only [getLsbD_extractBits v h, BitVec.getLsbD_setWidth, BitVec.getLsbD_extractLsb', hk, decide_true,
    Bool.true_and]

/-- R65, as a number: what is above the bits dropped, cut to `l` bits. -/
theorem extractBits_toNat {W p l : Nat} (v : BitVec W) (h : p + l ≤ W) :
    (extractBits W v p l).toNat = v.toNat / 2 ^ (W - p - l) % 2 ^ l := by
  have hl : l ≤ W := by omega
  rw [extractBits_eq_slice v h, BitVec.toNat_setWidth_of_le hl, BitVec.extractLsb'_toNat, Nat.shiftRight_eq_div_pow]

/-- Settles O10, from the slice and its bits; MSB-0 bit `p + k` is bit `W - 1 - (p + k)`. -/
theorem extractBitsIsTheMsbZeroSlice : Obligations.ExtractBitsIsTheMsbZeroSlice := by
  intro W v p l _ h
  refine ⟨?_, extractBits_eq_slice v h, fun k hk => ?_, fun k hk => ?_⟩
  · rw [extractBits_toNat v h]
    exact Nat.mod_lt _ (Nat.two_pow_pos l)
  · have hin : l - 1 - k < l := by omega
    have hmsb : p + k < W := by omega
    have hbit : W - p - l + (l - 1 - k) = W - 1 - (p + k) := by omega
    rw [getLsbD_extractBits v h, BitVec.getMsbD_eq_getLsbD, hbit, decide_eq_true hin, decide_eq_true hmsb]
  · rw [getLsbD_extractBits v h, decide_eq_false (Nat.not_lt.2 hk), Bool.false_and]

/-- R67, `p + l = W`: no bit is dropped. -/
theorem extractBits_toNat_of_low {W p l : Nat} (v : BitVec W) (h : p + l = W) :
    (extractBits W v p l).toNat = v.toNat % 2 ^ (W - p) := by
  have hshift : W - p - l = 0 := by omega
  have hwidth : W - p = l := by omega
  rw [extractBits_toNat v h.le, hshift, hwidth, Nat.pow_zero, Nat.div_one]

/-- R67, `p = 0`: what is left of the value after the drop already fits `l` bits. -/
theorem extractBits_toNat_of_top {W l : Nat} (v : BitVec W) (h : l ≤ W) :
    (extractBits W v 0 l).toNat = v.toNat / 2 ^ (W - l) := by
  have hfits : v.toNat / 2 ^ (W - l) < 2 ^ l := by
    apply Nat.div_lt_of_lt_mul
    rw [← Nat.pow_add, Nat.sub_add_cancel h]
    exact v.isLt
  rw [extractBits_toNat v (by omega), Nat.sub_zero, Nat.mod_eq_of_lt hfits]

/-- R67, `l = 1`. -/
theorem extractBits_toNat_of_one {W p : Nat} (v : BitVec W) (h : p + 1 ≤ W) :
    (extractBits W v p 1).toNat = (v.getMsbD p).toNat := by
  have hmsb : p < W := h
  have hbit : W - p - 1 = W - 1 - p := by omega
  rw [extractBits_toNat v h, BitVec.getMsbD_eq_getLsbD, decide_eq_true hmsb, Bool.true_and, BitVec.getLsbD, hbit,
    Nat.toNat_testBit, Nat.pow_one]

/-- Settles O11: three windows as numbers, and the window check's two conditions at the corners. -/
theorem extractBitsCornerCases : Obligations.ExtractBitsCornerCases := by
  intro W v hW
  refine ⟨fun p l _ h => ⟨by omega, extractBits_toNat_of_low v h⟩,
    fun l _ h => ⟨BitVec.ushiftRight_zero _, extractBits_toNat_of_top v h⟩, fun p => ?_, extractBits_whole W v,
    fun p h => extractBits_toNat_of_one v h, fun p => windowCheck_of_illegal (.inl rfl),
    fun p l hp hl => windowCheck_of_illegal (.inr (by omega)), fun p l _ _ h => windowCheck_of_illegal (.inr h),
    fun p l h => ?_⟩
  · rw [windowCheck_eq_ok_iff]
    omega
  · obtain ⟨hl, hp⟩ := windowCheck_eq_ok_iff.1 h
    omega

/-! ### XBITS (R68) -/

theorem exec_xbits_of_legal {p l : Nat} (hl : 1 ≤ l) (hp : p + l ≤ 8) (s : State) :
    exec (.xbits p l) s = .next (s.complete .byte ((extractBits 8 s.byteOperand p l).setWidth 32)) := by
  simp only [exec, execXbits, windowCheck_of_legal hl hp, except_ok_bind, except_pure, State.deliver_ok]

theorem windowLegal_xbits_eq_false {p l : Nat} (h : l = 0 ∨ 8 < p + l) : windowLegal (.xbits p l) = false := by
  simp only [windowLegal, Bool.and_eq_false_iff, decide_eq_false_iff_not]
  omega

/-- Settles O15: the words are those of XBITS's row, and the window check decides how the command ends. -/
theorem xbitsExtractsOperandByte : Obligations.XbitsExtractsOperandByte := by
  refine ⟨fun p l hp hl => ?_, fun p l s hl hp => exec_xbits_of_legal hl hp s,
    fun p l s h => exec_of_illegal_window (windowLegal_xbits_eq_false h)⟩
  have hrow : ⟨0x20000000, 0xF801FFFF, .xbits⟩ ∈ decodeRows := by simp [decodeRows]
  exact decode_windowWord hrow rfl hp hl

end Sys2Proof.Machine
end

section
/-! SUPPORT. The obligations about the buffer accessor (41_buffer_accessor.md). -/

namespace Sys2Proof.Machine

/-! ### The two ends of a buffer command (R71) -/

/-- The test `windowLegal` makes of a window fails where `windowCheck` does (R63). -/
theorem windowLegal_eq_false {W p l : Nat} (h : l = 0 ∨ W < p + l) :
    (decide (1 ≤ l) && decide (p + l ≤ W)) = false := by
  simp only [Bool.and_eq_false_iff, decide_eq_false_iff_not]
  omega

/-- Both errors of a buffer command are RangeError. -/
theorem exec_buffer_raises {i : Instr} {s : State} (hi : sourceUse i = .buffer)
    (h : windowLegal i = false ∨ s.buf.len.toNat < s.opnd.toNat + bytesRead i) :
    exec i s = .next (s.raise .rangeError) :=
  h.elim exec_of_illegal_window (exec_buffer_of_short hi)

theorem exec_brdbits_of_legal {p l : Nat} {s : State} (hw : windowCheck 8 p l = .ok ())
    (h : s.opnd.toNat + 1 ≤ s.buf.len.toNat) :
    exec (.brdbits p l) s =
      .next (s.complete .byte ((extractBits 8 (s.buf.byteAt s.opnd.toNat) p l).setWidth 32)) := by
  simp only [exec, execBrdbits, hw, State.bufferOffset, State.bufRead_of_le h]
  rfl

theorem exec_brdu16bits_of_legal {p l : Nat} {s : State} (hw : windowCheck 16 p l = .ok ())
    (h : s.opnd.toNat + 2 ≤ s.buf.len.toNat) :
    exec (.brdu16bits p l) s = .next (s.complete .u16 ((extractBits 16
      (be16 (s.buf.byteAt s.opnd.toNat) (s.buf.byteAt (s.opnd.toNat + 1))) p l).setWidth 32)) := by
  simp only [exec, execBrdu16bits, hw, State.bufferOffset, State.bufRead_of_le h]
  rfl

theorem exec_brdu16_of_le {s : State} (h : s.opnd.toNat + 2 ≤ s.buf.len.toNat) :
    exec .brdu16 s = .next (s.complete .u16
      ((be16 (s.buf.byteAt s.opnd.toNat) (s.buf.byteAt (s.opnd.toNat + 1))).setWidth 32)) := by
  simp only [exec, execBrdu16, State.bufferOffset, State.bufRead_of_le h]
  rfl

/-- A buffer command with a legal window and all its bytes completes. -/
theorem exec_buffer_completes {i : Instr} {s : State} (hi : sourceUse i = .buffer) (hw : windowLegal i = true)
    (h : s.opnd.toNat + bytesRead i ≤ s.buf.len.toNat) : ∃ k v, exec i s = .next (s.complete k v) := by
  cases i with
  | brdbits p l => exact ⟨_, _, exec_brdbits_of_legal (windowCheck_of_windowLegal hw) h⟩
  | brdu16bits p l => exact ⟨_, _, exec_brdu16bits_of_legal (windowCheck_of_windowLegal hw) h⟩
  | brdu16 => exact ⟨_, _, exec_brdu16_of_le h⟩
  | brdipv4 => exact ⟨_, _, exec_brdipv4_of_le h⟩
  | xbits | speek | speekbits | sconsumebits | srdu16 | srdu16bits | srdipv4 => cases hi

/-- The states a buffer command can end in. -/
theorem exec_buffer_cases {i : Instr} {s t : State} (hi : sourceUse i = .buffer) (h : exec i s = .next t) :
    t = s.raise .rangeError ∨ ∃ k v, t = s.complete k v := by
  by_cases hbad : windowLegal i = false ∨ s.buf.len.toNat < s.opnd.toNat + bytesRead i
  · exact .inl (Host.Outcome.next.inj (h.symm.trans (exec_buffer_raises hi hbad)))
  · obtain ⟨hw, hbytes⟩ := not_or.1 hbad
    obtain ⟨k, v, hdone⟩ := exec_buffer_completes hi (Bool.eq_true_of_not_eq_false hw) (Nat.le_of_not_lt hbytes)
    exact .inr ⟨k, v, Host.Outcome.next.inj (h.symm.trans hdone)⟩

/-! ### What each buffer command does (R72-R75) -/

/-- Settles O16: the words are those of BRDBITS's row, and the window and the byte at OPND decide how the command ends. -/
theorem brdbitsExtractsBufferByte : Obligations.BrdbitsExtractsBufferByte := by
  refine ⟨fun p l hp hl => ?_, fun p l s hl hp h => exec_brdbits_of_legal (windowCheck_of_legal hl hp) h,
    fun p l s h => exec_buffer_raises rfl ((or_assoc.2 h).imp_left windowLegal_eq_false)⟩
  have hrow : ⟨0x10000000, 0xF801FFFF, .brdbits⟩ ∈ decodeRows := by simp [decodeRows]
  exact decode_windowWord hrow rfl hp hl

/-- R39's formula as a 16-bit value. -/
theorem be16_eq_ofNat (b0 b1 : Byte) : be16 b0 b1 = BitVec.ofNat 16 (b0.toNat * 256 + b1.toNat) := by
  rw [← be16_toNat, BitVec.ofNat_toNat, BitVec.setWidth_eq]

/-- Settles O17: the pair is the `be16` of its two bytes. -/
theorem brdu16bitsExtractsBufferPair : Obligations.Brdu16bitsExtractsBufferPair := by
  refine ⟨fun p l hp hl => ?_, fun p l s hl hp h => ?_,
    fun p l s h => exec_buffer_raises rfl ((or_assoc.2 h).imp_left windowLegal_eq_false)⟩
  · have hrow : ⟨0x30000000, 0xF801FFFF, .brdu16bits⟩ ∈ decodeRows := by simp [decodeRows]
    exact decode_windowWord hrow rfl hp hl
  · rw [← be16_eq_ofNat]
    exact exec_brdu16bits_of_legal (windowCheck_of_legal hl hp) h

/-- Settles O18: the zero-extended pair is the same number. -/
theorem brdu16ReadsBufferPair : Obligations.Brdu16ReadsBufferPair := by
  refine ⟨rfl, fun s h => ?_, fun s h => exec_buffer_of_short rfl h⟩
  rw [← be16_toNat, BitVec.ofNat_toNat]
  exact exec_brdu16_of_le h

/-- Settles O19: RESULT is the `ipv4Word` of the four bytes. -/
theorem brdipv4ReadsBufferOctets : Obligations.Brdipv4ReadsBufferOctets :=
  ⟨rfl, fun _ h => exec_brdipv4_of_le h, fun _ h => exec_buffer_of_short rfl h⟩

/-! ### Properties of the buffer accessor (R71, R76) -/

/-- With the same OPND and buffer, the checks and reads of a buffer command have the same outcome. -/
theorem exec_buffer_same_outcome {i : Instr} {s s' : State} (hi : sourceUse i = .buffer) (hopnd : s'.opnd = s.opnd)
    (hbuf : s'.buf = s.buf) : ∃ k r, exec i s = s.deliver k r ∧ exec i s' = s'.deliver k r := by
  have hoffset : s'.bufferOffset = s.bufferOffset := congrArg BitVec.toNat hopnd
  have hread : s'.bufRead = s.bufRead := by
    funext a n
    rw [State.bufRead, State.bufRead, hbuf]
  cases i with
  | brdbits p l => exact ⟨_, _, rfl, by rw [exec, execBrdbits, hoffset, hread]⟩
  | brdu16bits p l => exact ⟨_, _, rfl, by rw [exec, execBrdu16bits, hoffset, hread]⟩
  | brdu16 => exact ⟨_, _, rfl, by rw [exec, execBrdu16, hoffset, hread]⟩
  | brdipv4 => exact ⟨_, _, rfl, by rw [exec, execBrdipv4, hoffset, hread]⟩
  | xbits | speek | speekbits | sconsumebits | srdu16 | srdu16bits | srdipv4 => cases hi

/-- Settles O39: a buffer command completes or raises RangeError, and the same outcome delivered to two states writes the
same STATUS, and the same RESULT unless it is an error. -/
theorem bufferCommandsAreStateless : Obligations.BufferCommandsAreStateless := by
  intro i s t s' t' hi h h'
  refine ⟨fun hok => ?_, fun herr => ?_, fun hopnd hbuf => ?_⟩
  · obtain rfl | ⟨k, v, rfl⟩ := exec_buffer_cases hi h
    · exact absurd hok (statusErr_errorStatus_ne_zero _)
    · rfl
  · obtain rfl | ⟨k, v, rfl⟩ := exec_buffer_cases hi h
    · rfl
    · exact absurd (statusErr_successStatus k) herr
  · obtain ⟨k, r, hs, hs'⟩ := exec_buffer_same_outcome hi hopnd hbuf
    rw [hs] at h
    rw [hs'] at h'
    cases r with
    | ok v =>
      cases h
      cases h'
      exact ⟨rfl, fun _ => rfl, fun _ => rfl⟩
    | error e =>
      cases h
      cases h'
      exact ⟨rfl, fun hok => absurd hok (statusErr_errorStatus_ne_zero e), id⟩

/-- Settles O41: the window 0, 16 is legal and extracts the whole pair, as R61 has it. -/
theorem fullWindowReadEqualsPlainRead : Obligations.FullWindowReadEqualsPlainRead := by
  obtain ⟨-, -, -, -, -, -, -, hpair⟩ := pseudoInstructionsExpand
  exact fun s => ⟨fun _ => hpair s, fun h => ⟨exec_buffer_of_short rfl h, exec_buffer_of_short rfl h⟩⟩

end Sys2Proof.Machine
end

section
/-! SUPPORT. The obligations about the stream accessor (42_stream_accessor.md). -/

namespace Sys2Proof.Machine

/-! ### A stream command that completes (R79-R83) -/

/-- The test `windowLegal` makes of a window passes where `windowCheck` does (R63). -/
theorem windowLegal_eq_true {W p l : Nat} (hl : 1 ≤ l) (hp : p + l ≤ W) :
    (decide (1 ≤ l) && decide (p + l ≤ W)) = true := by
  rw [decide_eq_true hl, decide_eq_true hp, Bool.and_self]

/-- `Advance(n)` leaves the sum of the cursor and `n` as a 32-bit word (R77). -/
theorem State.ofNat_pos_add (s : State) (n : Nat) : BitVec.ofNat 32 (s.pos.toNat + n) = (s.advance n).pos := by
  rw [State.advance_pos, BitVec.ofNat_add, BitVec.ofNat_toNat, BitVec.setWidth_eq]

theorem exec_speek_of_le {s : State} (h : s.pos.toNat + 1 ≤ s.str.len.toNat) :
    exec .speek s = .next (s.complete .byte ((s.str.byteAt s.pos.toNat).setWidth 32)) := by
  simp only [exec, execSpeek, State.cursor, State.strRead_of_le h]
  rfl

theorem exec_speekbits_of_legal {p l : Nat} {s : State} (hw : windowCheck 8 p l = .ok ())
    (h : s.pos.toNat + 1 ≤ s.str.len.toNat) :
    exec (.speekbits p l) s =
      .next (s.complete .byte ((extractBits 8 (s.str.byteAt s.pos.toNat) p l).setWidth 32)) := by
  simp only [exec, execSpeekbits, hw, State.cursor, State.strRead_of_le h]
  rfl

theorem exec_sconsumebits_of_legal {p l : Nat} {s : State} (hw : windowCheck 8 p l = .ok ())
    (h : s.pos.toNat + 1 ≤ s.str.len.toNat) :
    exec (.sconsumebits p l) s =
      .next ((s.advance 1).complete .byte ((extractBits 8 (s.str.byteAt s.pos.toNat) p l).setWidth 32)) := by
  simp only [exec, execSconsumebits, hw, State.cursor, State.strRead_of_le h]
  rfl

theorem exec_srdu16_of_le {s : State} (h : s.pos.toNat + 2 ≤ s.str.len.toNat) :
    exec .srdu16 s = .next ((s.advance 2).complete .u16
      ((be16 (s.str.byteAt s.pos.toNat) (s.str.byteAt (s.pos.toNat + 1))).setWidth 32)) := by
  simp only [exec, execSrdu16, State.cursor, State.strRead_of_le h]
  rfl

theorem exec_srdu16bits_of_legal {p l : Nat} {s : State} (hw : windowCheck 16 p l = .ok ())
    (h : s.pos.toNat + 2 ≤ s.str.len.toNat) :
    exec (.srdu16bits p l) s = .next ((s.advance 2).complete .u16 ((extractBits 16
      (be16 (s.str.byteAt s.pos.toNat) (s.str.byteAt (s.pos.toNat + 1))) p l).setWidth 32)) := by
  simp only [exec, execSrdu16bits, hw, State.cursor, State.strRead_of_le h]
  rfl

/-! ### What each stream command does (R79-R84) -/

/-- Settles O20: the byte at POS decides how SPEEK ends. -/
theorem speekReadsStreamByte : Obligations.SpeekReadsStreamByte :=
  ⟨rfl, fun _ h => exec_speek_of_le h, fun _ h => exec_of_short_stream rfl rfl h⟩

/-- Settles O21: the words are those of SPEEKBITS's row, and the window and then the byte at POS decide how the command
ends. -/
theorem speekbitsExtractsStreamByte : Obligations.SpeekbitsExtractsStreamByte := by
  refine ⟨fun p l hp hl => ?_, fun p l s hl hp h => exec_speekbits_of_legal (windowCheck_of_legal hl hp) h,
    fun p l s h => exec_of_illegal_window (windowLegal_eq_false h),
    fun p l s hl hp h => exec_of_short_stream rfl (windowLegal_eq_true hl hp) h⟩
  have hrow : ⟨0x70000000, 0xF801FFFF, .speekbits⟩ ∈ decodeRows := by simp [decodeRows]
  exact decode_windowWord hrow rfl hp hl

/-- Settles O22: as SPEEKBITS, and the completion is that of a state whose cursor has advanced. -/
theorem sconsumebitsConsumesOneByte : Obligations.SconsumebitsConsumesOneByte := by
  refine ⟨fun p l hp hl => ?_, fun p l s hl hp h => ?_,
    fun p l s h => exec_of_illegal_window (windowLegal_eq_false h),
    fun p l s hl hp h => exec_of_short_stream rfl (windowLegal_eq_true hl hp) h⟩
  · have hrow : ⟨0x78000000, 0xF801FFFF, .sconsumebits⟩ ∈ decodeRows := by simp [decodeRows]
    exact decode_windowWord hrow rfl hp hl
  · rw [State.ofNat_pos_add]
    exact exec_sconsumebits_of_legal (windowCheck_of_legal hl hp) h

/-- Settles O23: the zero-extended pair is the number `b0 * 256 + b1`. -/
theorem srdu16ConsumesPair : Obligations.Srdu16ConsumesPair := by
  refine ⟨rfl, fun s h => ?_, fun s h => exec_of_short_stream rfl rfl h⟩
  rw [State.ofNat_pos_add, ← be16_toNat, BitVec.ofNat_toNat]
  exact exec_srdu16_of_le h

/-- Settles O24: the pair is the `be16` of its two bytes, and the window is checked before they are read. -/
theorem srdu16bitsConsumesPair : Obligations.Srdu16bitsConsumesPair := by
  refine ⟨fun p l hp hl => ?_, fun p l s hl hp h => ?_,
    fun p l s h => exec_of_illegal_window (windowLegal_eq_false h),
    fun p l s hl hp h => exec_of_short_stream rfl (windowLegal_eq_true hl hp) h⟩
  · have hrow : ⟨0x90000000, 0xF801FFFF, .srdu16bits⟩ ∈ decodeRows := by simp [decodeRows]
    exact decode_windowWord hrow rfl hp hl
  · rw [State.ofNat_pos_add, ← be16_eq_ofNat]
    exact exec_srdu16bits_of_legal (windowCheck_of_legal hl hp) h

/-- Settles O25: RESULT is the `ipv4Word` of the four bytes. -/
theorem srdipv4ConsumesOctets : Obligations.Srdipv4ConsumesOctets := by
  refine ⟨rfl, fun s h => ?_, fun s h => exec_of_short_stream rfl rfl h⟩
  rw [State.ofNat_pos_add]
  exact exec_srdipv4_of_le h

/-! ### What a command leaves unchanged (R77, R78, R86) -/

/-- Settles O28: of the two ends of a CMD write only `raise` leaves ERR nonzero, and it writes STATUS alone. -/
theorem failingCommandWritesOnlyStatus : Obligations.FailingCommandWritesOnlyStatus := by
  intro w s t h herr
  obtain ⟨e, rfl⟩ | ⟨i, k, v, -, rfl, -⟩ := executeCommand_cases h
  · rfl
  · exact absurd (statusErr_successStatus k) herr

/-- A command that consumes nothing changes RESULT and STATUS alone, on success and on an error. -/
theorem exec_frame_of_posChange_zero {i : Instr} {s t : State} (hi : posChange i = 0) (h : exec i s = .next t) :
    t = { s with result := t.result, status := t.status } ∧ t.pos = s.pos := by
  obtain ⟨e, rfl⟩ | ⟨-, k, v, rfl⟩ | ⟨hpos, -⟩ := exec_cases h
  · exact ⟨rfl, rfl⟩
  · exact ⟨rfl, rfl⟩
  · omega

/-- Settles O35: R43 gives none of these commands a POS change. -/
theorem nonConsumingCommandsKeepPos : Obligations.NonConsumingCommandsKeepPos := by
  intro i s t hi h
  have hzero : posChange i = 0 := by
    obtain ⟨p, l, rfl | rfl | rfl | rfl⟩ | rfl | rfl | rfl := hi <;> rfl
  exact exec_frame_of_posChange_zero hzero h

/-- A stream command changes RESULT, STATUS and POS alone: POS by R43's change, exactly, on success, and neither POS nor
RESULT on an error. -/
theorem exec_stream_frame {i : Instr} {s t : State} (hi : sourceUse i = .stream) (h : exec i s = .next t) :
    t = { s with result := t.result, status := t.status, pos := t.pos } ∧
      (statusErr t.status = 0 → t.pos.toNat = s.pos.toNat + posChange i) ∧
      (statusErr t.status ≠ 0 → t.pos = s.pos ∧ t.result = s.result) := by
  obtain ⟨-, -, -, -, hstream⟩ := boundsArithmeticNeverWraps
  have hmoved : statusErr t.status = 0 → t.pos.toNat = s.pos.toNat + posChange i := fun hok => by
    obtain ⟨-, hexact, -⟩ := hstream i s t hi h hok
    exact hexact
  obtain ⟨e, rfl⟩ | ⟨-, k, v, rfl⟩ | ⟨-, k, v, rfl⟩ := exec_cases h
  · exact ⟨rfl, hmoved, fun _ => ⟨rfl, rfl⟩⟩
  all_goals exact ⟨rfl, hmoved, fun herr => absurd (statusErr_successStatus k) herr⟩

/-- Settles O36: these are the stream commands with R43's POS changes 1, 2, 2 and 4. -/
theorem consumingCommandsAdvanceOnlyOnSuccess : Obligations.ConsumingCommandsAdvanceOnlyOnSuccess := by
  intro i n s t hi h
  obtain ⟨hstream, rfl⟩ : sourceUse i = .stream ∧ posChange i = n := by
    obtain ⟨p, l, ⟨rfl, rfl⟩ | ⟨rfl, rfl⟩⟩ | ⟨rfl, rfl⟩ | ⟨rfl, rfl⟩ := hi <;> exact ⟨rfl, rfl⟩
  exact exec_stream_frame hstream h

/-! ### Peeking (R85) -/

/-- With the same POS and stream, the checks and reads of a stream command have the same outcome. -/
theorem exec_stream_same_outcome {i : Instr} {s s' : State} (hi : sourceUse i = .stream) (hpos : s'.pos = s.pos)
    (hstr : s'.str = s.str) : ∃ k r, exec i s = s.deliverConsuming (posChange i) k r ∧
      exec i s' = s'.deliverConsuming (posChange i) k r := by
  have hcursor : s'.cursor = s.cursor := congrArg BitVec.toNat hpos
  have hread : s'.strRead = s.strRead := by
    funext a n
    rw [State.strRead, State.strRead, hstr]
  cases i with
  | speek =>
    exact ⟨_, _, s.deliver_eq_deliverConsuming_zero _ _, by
      rw [exec, execSpeek, hcursor, hread]
      exact s'.deliver_eq_deliverConsuming_zero _ _⟩
  | speekbits p l =>
    exact ⟨_, _, s.deliver_eq_deliverConsuming_zero _ _, by
      rw [exec, execSpeekbits, hcursor, hread]
      exact s'.deliver_eq_deliverConsuming_zero _ _⟩
  | sconsumebits p l => exact ⟨_, _, rfl, by rw [exec, execSconsumebits, hcursor, hread]; rfl⟩
  | srdu16 => exact ⟨_, _, rfl, by rw [exec, execSrdu16, hcursor, hread]; rfl⟩
  | srdu16bits p l => exact ⟨_, _, rfl, by rw [exec, execSrdu16bits, hcursor, hread]; rfl⟩
  | srdipv4 => exact ⟨_, _, rfl, by rw [exec, execSrdipv4, hcursor, hread]; rfl⟩
  | brdbits | xbits | brdu16bits | brdu16 | brdipv4 => cases hi

/-- A peek done twice leaves POS and ends both times with the same RESULT and STATUS, whether it completes or raises. -/
theorem exec_peek_twice {i : Instr} (hi : sourceUse i = .stream) (hzero : posChange i = 0) (s : State) :
    ∃ t u, exec i s = .next t ∧ exec i t = .next u ∧ u.result = t.result ∧ u.status = t.status ∧
      t.pos = s.pos ∧ u.pos = s.pos := by
  obtain ⟨t, ht⟩ := exec_next i s
  obtain ⟨u, hu⟩ := exec_next i t
  obtain ⟨-, hpos⟩ := exec_frame_of_posChange_zero hzero ht
  obtain ⟨-, hpos'⟩ := exec_frame_of_posChange_zero hzero hu
  obtain ⟨-, -, -, hstr, -⟩ := commandsKeepOperandsAndSources i s t ht
  obtain ⟨k, r, hs, hs'⟩ := exec_stream_same_outcome hi hpos hstr
  have hsame : u.result = t.result ∧ u.status = t.status := by
    cases r with
    | ok v =>
      cases hs.symm.trans ht
      cases hs'.symm.trans hu
      exact ⟨rfl, rfl⟩
    | error e =>
      cases hs.symm.trans ht
      cases hs'.symm.trans hu
      exact ⟨rfl, rfl⟩
  obtain ⟨hresult, hstatus⟩ := hsame
  exact ⟨t, u, ht, hu, hresult, hstatus, hpos, hpos'.trans hpos⟩

/-- Settles O42: SPEEK moves no cursor, so the `srdbyte` after it finds the same byte; the window 0, 8 is the whole of it. -/
theorem peekIsCursorNeutral : Obligations.PeekIsCursorNeutral := by
  have hbyte : windowCheck 8 0 8 = .ok () := windowCheck_of_legal (by decide) (by decide)
  refine ⟨fun s h => ?_, fun p l s => exec_peek_twice rfl rfl s, fun p l s u h hok => ?_⟩
  · refine ⟨_, _, exec_speek_of_le h, exec_sconsumebits_of_legal hbyte h, ?_, statusValid_successStatus _,
      statusValid_successStatus _, rfl, State.advance_pos_toNat (n := 1) h⟩
    simp only [extractBits_whole, State.complete_result, State.complete_pos, State.complete_str]
  · obtain ⟨-, hmoved, -⟩ := exec_stream_frame rfl h
    exact hmoved hok

end Sys2Proof.Machine
end

section
/-! SUPPORT. The obligations about errors, completion and priority (60_exceptions.md), and a word that has no defect matches
a row (30_encoding.md R54-R58). -/

namespace Sys2Proof.Machine

/-! ### The two ends of a command (R88-R90) -/

/-- Settles O26: the codes are the numbers of R88 and R89. -/
theorem completeAndRaiseWriteTheirCodes : Obligations.CompleteAndRaiseWriteTheirCodes := fun _ _ =>
  ⟨rfl, rfl, rfl, rfl, rfl, rfl, statusErr_successStatus,
    fun e => ⟨statusErr_errorStatus_ne_zero e, statusValid_errorStatus e, statusRkind_errorStatus e⟩⟩

/-! ### The bound each source sets (R36, R37) -/

theorem inBounds_of_noSource {i : Instr} (hi : sourceUse i = .noSource) (s : State) : inBounds i s = true := by
  unfold inBounds
  rw [hi]

theorem inBounds_of_buffer {i : Instr} (hi : sourceUse i = .buffer) (s : State) :
    inBounds i s = decide (s.opnd.toNat + bytesRead i ≤ s.buf.len.toNat) := by
  unfold inBounds
  rw [hi]

theorem inBounds_of_stream {i : Instr} (hi : sourceUse i = .stream) (s : State) :
    inBounds i s = decide (s.pos.toNat + bytesRead i ≤ s.str.len.toNat) := by
  unfold inBounds
  rw [hi]

/-! ### The first applicable error (R91, R92, R94) -/

theorem exec_buffer_of_not_inBounds {i : Instr} {s : State} (hi : sourceUse i = .buffer) (hw : windowLegal i = true)
    (hb : inBounds i s = false) : exec i s = .next (s.raise .rangeError) := by
  rw [inBounds_of_buffer hi, decide_eq_false_iff_not] at hb
  exact exec_of_short_buffer hi hw (Nat.lt_of_not_le hb)

theorem exec_stream_of_not_inBounds {i : Instr} {s : State} (hi : sourceUse i = .stream) (hw : windowLegal i = true)
    (hb : inBounds i s = false) : exec i s = .next (s.raise .endOfSource) := by
  rw [inBounds_of_stream hi, decide_eq_false_iff_not] at hb
  exact exec_of_short_stream hi hw (Nat.lt_of_not_le hb)

/-- A stream command with a legal window and all its bytes completes, in the state whose cursor it has advanced. -/
theorem exec_stream_completes {i : Instr} {s : State} (hi : sourceUse i = .stream) (hw : windowLegal i = true)
    (h : s.pos.toNat + bytesRead i ≤ s.str.len.toNat) :
    ∃ k v, exec i s = .next ((s.advance (posChange i)).complete k v) := by
  cases i with
  | speek =>
    rw [posChange, State.advance_zero]
    exact ⟨_, _, exec_speek_of_le h⟩
  | speekbits p l =>
    rw [posChange, State.advance_zero]
    exact ⟨_, _, exec_speekbits_of_legal (windowCheck_of_windowLegal hw) h⟩
  | sconsumebits p l => exact ⟨_, _, exec_sconsumebits_of_legal (windowCheck_of_windowLegal hw) h⟩
  | srdu16 => exact ⟨_, _, exec_srdu16_of_le h⟩
  | srdu16bits p l => exact ⟨_, _, exec_srdu16bits_of_legal (windowCheck_of_windowLegal hw) h⟩
  | srdipv4 => exact ⟨_, _, exec_srdipv4_of_le h⟩
  | brdbits | xbits | brdu16bits | brdu16 | brdipv4 => cases hi

theorem exec_noSource_completes {i : Instr} {s : State} (hi : sourceUse i = .noSource) (hw : windowLegal i = true) :
    ∃ k v, exec i s = .next (s.complete k v) := by
  cases i with
  | xbits p l =>
    obtain ⟨hl, hp⟩ := windowCheck_eq_ok_iff.1 (windowCheck_of_windowLegal hw)
    exact ⟨_, _, exec_xbits_of_legal hl hp s⟩
  | brdbits | brdu16bits | brdu16 | brdipv4 | speek | speekbits | sconsumebits | srdu16 | srdu16bits | srdipv4 => cases hi

/-- Every command to which no error applies leaves the STATUS of a success. -/
theorem exec_succeeds {i : Instr} {s : State} (hw : windowLegal i = true) (hb : inBounds i s = true) :
    ∃ k t, exec i s = .next t ∧ t.status = successStatus k := by
  cases hi : sourceUse i with
  | noSource =>
    obtain ⟨k, v, h⟩ := exec_noSource_completes (s := s) hi hw
    exact ⟨k, _, h, rfl⟩
  | buffer =>
    rw [inBounds_of_buffer hi, decide_eq_true_eq] at hb
    obtain ⟨k, v, h⟩ := exec_buffer_completes hi hw hb
    exact ⟨k, _, h, rfl⟩
  | stream =>
    rw [inBounds_of_stream hi, decide_eq_true_eq] at hb
    obtain ⟨k, v, h⟩ := exec_stream_completes hi hw hb
    exact ⟨k, _, h, rfl⟩

/-- Settles O27: a command has one outcome, and each check that fails, with those before it passed, fixes it. -/
theorem firstApplicableErrorIsReported : Obligations.FirstApplicableErrorIsReported := by
  intro w s
  cases hd : decode w with
  | error x => exact ⟨_, executeCommand_of_error hd s, rfl⟩
  | ok i =>
    have hrun := executeCommand_of_ok hd s
    obtain ⟨t, ht⟩ := exec_next i { s with cmd := w }
    have hunique {u : State} (hu : exec i { s with cmd := w } = .next u) : t = u :=
      Host.Outcome.next.inj (ht.symm.trans hu)
    refine ⟨t, hrun.trans ht, fun hw => hunique (exec_of_illegal_window hw), fun hw hb =>
      ⟨fun hi => hunique (exec_buffer_of_not_inBounds hi hw hb),
        fun hi => hunique (exec_stream_of_not_inBounds hi hw hb)⟩, fun hw hb => ?_⟩
    obtain ⟨k, u, hu, hstatus⟩ := exec_succeeds (s := { s with cmd := w }) hw hb
    rw [← hunique hu] at hstatus
    obtain ⟨-, -, -, -, hkind⟩ := commandRewritesStatusFields w s t (hrun.trans ht)
    have herr : statusErr t.status = 0 := by rw [hstatus, statusErr_successStatus]
    have hvalid : statusValid t.status = true := by rw [hstatus, statusValid_successStatus]
    exact ⟨herr, hvalid, hkind i hd herr⟩

/-- A word that spells a command never leaves the code of IllegalCommand: the other errors have codes of their own. -/
theorem executeCommand_status_ne_illegalCommand {w : Word} {i : Instr} {s t : State} (hd : decode w = .ok i)
    (h : executeCommand w s = .next t) : t.status ≠ 3 := by
  obtain ⟨u, hu, hfirst⟩ := firstApplicableErrorIsReported w s
  obtain rfl : u = t := Host.Outcome.next.inj (hu.symm.trans h)
  rw [hd] at hfirst
  obtain ⟨hwindow, hbound, hsuccess⟩ := hfirst
  have hrange : (1 : Word) ≠ 3 := by decide
  have hend : (2 : Word) ≠ 3 := by decide
  have h3err : statusErr 3 ≠ 0 := by decide
  cases hw : windowLegal i with
  | false =>
    rw [hwindow hw]
    exact hrange
  | true =>
    cases hb : inBounds i s with
    | true =>
      obtain ⟨herr, -, -⟩ := hsuccess hw hb
      exact fun h3 => h3err (h3 ▸ herr)
    | false =>
      obtain ⟨hbuffer, hstream⟩ := hbound hw hb
      cases hi : sourceUse i with
      | noSource => exact nomatch hb.symm.trans (inBounds_of_noSource hi s)
      | buffer =>
        rw [hbuffer hi]
        exact hrange
      | stream =>
        rw [hstream hi]
        exact hend

/-! ### A word without a defect matches a row (R54-R58) -/

/-- Words that agree in a field agree in each of its bits. -/
theorem getLsbD_eq_of_field {w x : Word} {start len k : Nat} (hfield : w.extractLsb' start len = x.extractLsb' start len)
    (hlo : start ≤ k) (hhi : k < start + len) : w.getLsbD k = x.getLsbD k := by
  have hbit := congrArg (·.getLsbD (k - start)) hfield
  have hlen : k - start < len := by omega
  simpa [BitVec.getLsbD_extractLsb', hlen, Nat.add_sub_cancel' hlo] using hbit

/-- The five fields of R50 are the whole of a word. -/
theorem word_eq_of_fields {w x : Word} (hop : w.extractLsb' 28 4 = x.extractLsb' 28 4)
    (hadv : w.getLsbD 27 = x.getLsbD 27) (hbpos : w.extractLsb' 22 5 = x.extractLsb' 22 5)
    (hblen : w.extractLsb' 17 5 = x.extractLsb' 17 5) (hrsvd : w.extractLsb' 0 17 = x.extractLsb' 0 17) : w = x := by
  refine BitVec.eq_of_getLsbD_eq fun k hk => ?_
  obtain h | ⟨hlo, hhi⟩ | ⟨hlo, hhi⟩ | rfl | h : k < 17 ∨ (17 ≤ k ∧ k < 17 + 5) ∨ (22 ≤ k ∧ k < 22 + 5) ∨ k = 27 ∨ 28 ≤ k := by omega
  · exact getLsbD_eq_of_field hrsvd (Nat.zero_le k) (by omega)
  · exact getLsbD_eq_of_field hblen hlo hhi
  · exact getLsbD_eq_of_field hbpos hlo hhi
  · exact hadv
  · exact getLsbD_eq_of_field hop h hk

/-- Every OP that is not reserved has a row, ADV set only for OP 7. -/
theorem exists_row_of_opAdv : ∀ (op : BitVec 4) (adv : Bool), op ≠ 0 → op.toNat < 0xB → (adv = true → op = 7) →
    ∃ r ∈ decodeRows, r.pattern.extractLsb' 28 4 = op ∧ r.pattern.getLsbD 27 = adv := by
  decide

/-- The mask of a row whose command takes a window leaves the window out. -/
theorem mask_window_of_row : ∀ r ∈ decodeRows, (r.pattern.extractLsb' 28 4).toNat ∈ [4, 5, 6, 8, 0xA] ∨
    (r.mask.extractLsb' 22 5 = 0 ∧ r.mask.extractLsb' 17 5 = 0) := by
  decide

/-- A word with a row's OP and ADV, RSVD zero, and no window where the row takes none, matches that row. -/
theorem match_of_fields {w : Word} {r : DecodeRow} (hr : r ∈ decodeRows)
    (hop : r.pattern.extractLsb' 28 4 = w.extractLsb' 28 4) (hadv : r.pattern.getLsbD 27 = w.getLsbD 27)
    (hwindow : (w.extractLsb' 28 4).toNat ∈ [4, 5, 6, 8, 0xA] → w.extractLsb' 22 5 = 0 ∧ w.extractLsb' 17 5 = 0)
    (hrsvd : w.extractLsb' 0 17 = 0) : w &&& r.mask = r.pattern := by
  obtain ⟨hmop, hmadv, hmrsvd, -⟩ := mask_covers_of_row r hr
  obtain ⟨-, -, -, hprsvd⟩ := pattern_fields_of_row r hr
  obtain ⟨-, hpbpos, hpblen⟩ := pattern_of_row r hr
  have hmasked : w.extractLsb' 22 5 &&& r.mask.extractLsb' 22 5 = 0 ∧
      w.extractLsb' 17 5 &&& r.mask.extractLsb' 17 5 = 0 := by
    obtain hless | ⟨hmbpos, hmblen⟩ := mask_window_of_row r hr
    · obtain ⟨hbpos, hblen⟩ := hwindow (hop ▸ hless)
      rw [hbpos, hblen]
      exact ⟨BitVec.zero_and, BitVec.zero_and⟩
    · rw [hmbpos, hmblen]
      exact ⟨BitVec.and_zero, BitVec.and_zero⟩
  obtain ⟨hbpos, hblen⟩ := hmasked
  apply word_eq_of_fields
  · rw [BitVec.extractLsb'_and, hmop, BitVec.and_allOnes, hop]
  · rw [BitVec.getLsbD_and, hmadv, Bool.and_true, hadv]
  · rw [BitVec.extractLsb'_and, hbpos, hpbpos]
  · rw [BitVec.extractLsb'_and, hblen, hpblen]
  · rw [BitVec.extractLsb'_and, hmrsvd, BitVec.and_allOnes, hrsvd, hprsvd]

/-- Settles O6: a word without a defect matches the row of its OP and ADV, so it decodes. -/
theorem illegalCommandHasFourCauses : Obligations.IllegalCommandHasFourCauses := by
  refine ⟨fun w x hd => ?_, fun w x s hd => executeCommand_of_error hd s,
    fun w i s t hd h => executeCommand_status_ne_illegalCommand hd h⟩
  by_contra hgood
  simp only [not_or, not_and, not_not, not_le] at hgood
  obtain ⟨⟨hop0, hopB⟩, hadv7, hwindow, hrsvd⟩ := hgood
  obtain ⟨r, hr, hop, hadv⟩ := exists_row_of_opAdv _ _ hop0 hopB hadv7
  have hok := decode_eq_ok_iff.2 ⟨r, hr, match_of_fields hr hop hadv hwindow hrsvd, rfl⟩
  exact nomatch hd.symm.trans hok

end Sys2Proof.Machine
end

section
/-! SUPPORT. The obligations about reset, attaching and the hazards of the cursor (70_reset_and_hazards.md). -/

namespace Sys2Proof.Machine

/-! ### Actions that spare the cursor (R109) -/

/-- A write to CMD that spares the cursor spells a command that consumes nothing, if it spells one. -/
theorem posChange_of_sparesCursor {width offset : Nat} {v : Word} {i : Instr}
    (h : (HostAction.write width offset v).sparesCursor = true) (hr : regAt offset = .cmd) (hd : decode v = .ok i) :
    posChange i = 0 := by
  rw [HostAction.sparesCursor, hr, hd] at h
  exact beq_iff_eq.1 h

theorem not_sparesCursor_of_pos {width offset : Nat} {v : Word} (hr : regAt offset = .pos) :
    (HostAction.write width offset v).sparesCursor = false := by
  rw [HostAction.sparesCursor, hr]

theorem perform_keeps_cursor {e : HostEvent} {s t : State} (hspare : e.action.sparesCursor = true)
    (h : perform e s = .next t) : t.pos = s.pos ∧ t.str = s.str := by
  obtain ⟨offset, v, ha, hw⟩ | ⟨offset, -, rfl⟩ | ⟨bytes, -, -, rfl⟩ | ⟨bytes, ha, -, -⟩ | ⟨ha, -⟩ := perform_cases h
  · rw [ha] at hspare
    obtain ⟨hr, hexec⟩ | ⟨-, rfl⟩ | ⟨hr, -⟩ | ⟨-, -, -, rfl⟩ := hostWrite_cases hw
    · obtain ⟨e, rfl⟩ | ⟨i, k, v, hd, rfl, -⟩ := executeCommand_cases hexec
      · exact ⟨rfl, rfl⟩
      · rw [posChange_of_sparesCursor hspare hr hd, State.advance_zero]
        exact ⟨rfl, rfl⟩
    · exact ⟨rfl, rfl⟩
    · exact nomatch hspare.symm.trans (not_sparesCursor_of_pos hr)
    · exact ⟨rfl, rfl⟩
  · exact ⟨rfl, rfl⟩
  · exact ⟨rfl, rfl⟩
  all_goals
    rw [ha] at hspare
    cases hspare

/-- A run over actions of the interface that spare the cursor ends with POS and the stream source as they were. -/
theorem runSteps_keeps_cursor {s : State} {between rest : List HostEvent} (hp : s.pending = between ++ rest)
    (h : ∀ e ∈ between, e.action.inside = true ∧ e.action.sparesCursor = true) :
    ∃ t, runSteps between.length s = .next t ∧ t.pending = rest ∧ t.pos = s.pos ∧ t.str = s.str := by
  induction between generalizing s with
  | nil => exact ⟨s, runSteps_zero s, hp, rfl, rfl⟩
  | cons e es ih =>
    obtain ⟨⟨hin, hspare⟩, hes⟩ := List.forall_mem_cons.1 h
    obtain ⟨t, hperf⟩ := perform_next_of_inside hin { s with pending := es ++ rest }
    obtain ⟨hpos, hstr⟩ := perform_keeps_cursor hspare hperf
    obtain ⟨u, hrun, hpend, hpos', hstr'⟩ := ih (perform_pending hperf) hes
    exact ⟨u, (runSteps_succ_of_step ((step_pending hp).trans hperf) es.length).trans hrun, hpend, hpos'.trans hpos,
      hstr'.trans hstr⟩

theorem runSteps_one {s t : State} (h : step s = .next t) : runSteps 1 s = .next t :=
  (runSteps_succ_of_step h 0).trans (runSteps_zero t)

/-- Runs compose: the second starts where the first ended. -/
theorem runSteps_add {j : Nat} {s t : State} (h : runSteps j s = .next t) (k : Nat) :
    runSteps (j + k) s = runSteps k t := by
  induction j generalizing s with
  | zero =>
    cases Host.Outcome.next.inj h
    rw [Nat.zero_add]
  | succ j ih =>
    obtain ⟨u, hstep, hrest⟩ := runSteps_succ_cases h
    rw [Nat.succ_add, runSteps_succ_of_step hstep, ih hrest]

/-- A step that performs a CMD write of a legal word is the command it spells. -/
theorem step_command {s : State} {h : Nat} {w : Word} {i : Instr} {rest : List HostEvent}
    (hp : s.pending = ⟨h, .write 32 0x00 w⟩ :: rest) (hd : decode w = .ok i) :
    step s = exec i { s with cmd := w, pending := rest } := by
  obtain ⟨hlegal, -⟩ := stepRunsTheDecodedCommand s h w rest hp
  exact hlegal i hd

/-- SPEEK of a byte that exists puts it in RESULT and leaves the cursor as it was (R79). -/
theorem step_speek {s : State} {h : Nat} {rest : List HostEvent}
    (hp : s.pending = ⟨h, .write 32 0x00 0x60000000⟩ :: rest) (hlt : s.pos.toNat < s.str.len.toNat) :
    ∃ t, step s = .next t ∧ t.result = (s.str.byteAt s.pos.toNat).setWidth 32 ∧ t.pending = rest ∧ t.pos = s.pos ∧
      t.str = s.str :=
  ⟨_, (step_command hp rfl).trans (exec_speek_of_le hlt), rfl, rfl, rfl, rfl⟩

/-- `srdbyte` of a byte that exists puts it in RESULT and moves POS past it (R61, R81). -/
theorem step_srdbyte {s : State} {h : Nat} {rest : List HostEvent}
    (hp : s.pending = ⟨h, .write 32 0x00 0x78100000⟩ :: rest) (hlt : s.pos.toNat < s.str.len.toNat) :
    ∃ t, step s = .next t ∧ t.result = (s.str.byteAt s.pos.toNat).setWidth 32 ∧ t.pending = rest ∧
      t.pos.toNat = s.pos.toNat + 1 := by
  have hwindow : windowCheck 8 0 8 = .ok () := windowCheck_of_legal (by decide) (by decide)
  refine ⟨_, (step_command hp rfl).trans (exec_sconsumebits_of_legal hwindow hlt), ?_, rfl,
    State.advance_pos_toNat (n := 1) hlt⟩
  exact congrArg (BitVec.setWidth 32) (extractBits_whole 8 _)

/-- Settles O55: SPEEK and the actions after it leave POS and the stream as they were, so `srdbyte` finds the same byte. -/
theorem exclusiveCursorConsumesThePeekedByte : Obligations.ExclusiveCursorConsumesThePeekedByte := by
  intro s h between rest hp hbetween hlt
  obtain ⟨t, hpeek, hresult, hpend, hpos, hstr⟩ := step_speek hp hlt
  obtain ⟨m, hrun, hpend', hpos', hstr'⟩ := runSteps_keeps_cursor hpend hbetween
  have hposm : m.pos = s.pos := hpos'.trans hpos
  have hstrm : m.str = s.str := hstr'.trans hstr
  obtain ⟨u, hconsume, hresult', hpend'', hmoved⟩ := step_srdbyte hpend' (by rwa [hposm, hstrm])
  rw [hposm] at hmoved
  rw [hposm, hstrm, ← hresult] at hresult'
  refine ⟨t, u, runSteps_one hpeek, ?_, ?_, hresult', hmoved, hpend''⟩
  · rw [runSteps_succ_of_step hpeek, runSteps_add hrun, runSteps_one hconsume]
  · rw [Memory.readByte_of_lt hlt, hresult, BitVec.setWidth_setWidth_of_le _ (by decide), BitVec.setWidth_eq]

/-! ### No source attached (R104) -/

theorem bytesRead_pos_of_stream {i : Instr} (hi : sourceUse i = .stream) : 0 < bytesRead i := by
  cases i with
  | speek | speekbits | sconsumebits | srdu16 | srdu16bits | srdipv4 => exact Nat.succ_pos _
  | brdbits | xbits | brdu16bits | brdu16 | brdipv4 => cases hi

theorem lt_add_bytesRead_of_len_zero {m : Memory} {n : Nat} (hm : m.len = 0) (hn : 0 < n) (a : Nat) :
    m.len.toNat < a + n := by
  rw [hm]
  exact Nat.add_pos_right a hn

/-- Settles O32: every buffer and stream command reads at least one byte, and an empty source has none. -/
theorem unattachedSourcesGiveErrors : Obligations.UnattachedSourcesGiveErrors := by
  intro s hbuf hstr
  refine ⟨fun i hi => ?_, fun i hi hw => ?_, fun i _ hw => exec_of_illegal_window hw,
    fun w x hd => executeCommand_of_error hd s, fun p l hl hp => ⟨_, exec_xbits_of_legal hl hp s, rfl⟩⟩
  · exact exec_buffer_of_short hi (lt_add_bytesRead_of_len_zero hbuf (bytesRead_pos_of_buffer hi) _)
  · exact exec_of_short_stream hi hw (lt_add_bytesRead_of_len_zero hstr (bytesRead_pos_of_stream hi) _)

/-! ### Reading again after a rewind (R111) -/

/-- The same value or error, delivered where POS is the same, leaves the same POS and STATUS, and the same RESULT where the
command completes. -/
theorem State.deliverConsuming_of_pos {s t u : State} {n : Nat} {k : ResultKind} {r : Except ErrorKind Word}
    (hpos : u.pos = s.pos) (h : s.deliverConsuming n k r = .next t) :
    u.deliverConsuming n k r = .next { u with
      pos := t.pos, status := t.status, result := if statusValid t.status then t.result else u.result } := by
  obtain ⟨v, rfl, rfl⟩ | ⟨e, rfl, rfl⟩ := State.deliverConsuming_cases h
  · simp [State.complete, State.advance, hpos]
  · simp [State.raise, hpos]

/-- Settles O43: after the write POS and the stream are those of the first reading, and a stream command reads nothing
else. -/
theorem rewindRereadsTheSameBytes : Obligations.RewindRereadsTheSameBytes := by
  intro i s s' t hi hstr h
  refine ⟨_, rfl, rfl, fun n => ?_, ?_⟩
  · rw [State.strRead, State.strRead, hstr]
    rfl
  · obtain ⟨k, r, hs, hu⟩ := exec_stream_same_outcome (s := s) (s' := { s' with pos := s.pos }) hi rfl hstr
    exact hu.trans (State.deliverConsuming_of_pos (s := s) rfl (hs.symm.trans h))

/-! ### The reads after a command (R106, R107) -/

theorem State.deliverConsuming_of_pending {s t : State} {n : Nat} {k : ResultKind} {r : Except ErrorKind Word}
    (h : s.deliverConsuming n k r = .next t) (later : List HostEvent) :
    State.deliverConsuming { s with pending := later } n k r = .next { t with pending := later } := by
  obtain ⟨v, rfl, rfl⟩ | ⟨e, rfl, rfl⟩ := State.deliverConsuming_cases h <;> rfl

theorem State.deliver_of_pending {s t : State} {k : ResultKind} {r : Except ErrorKind Word}
    (h : s.deliver k r = .next t) (later : List HostEvent) :
    State.deliver { s with pending := later } k r = .next { t with pending := later } := by
  obtain ⟨v, rfl, rfl⟩ | ⟨e, rfl, rfl⟩ := State.deliver_cases h <;> rfl

/-- No command depends on the actions still to come. -/
theorem exec_of_pending {i : Instr} {s t : State} (h : exec i s = .next t) (later : List HostEvent) :
    exec i { s with pending := later } = .next { t with pending := later } := by
  cases i with
  | sconsumebits | srdu16 | srdu16bits | srdipv4 => exact State.deliverConsuming_of_pending h later
  | _ => exact State.deliver_of_pending h later

theorem executeCommand_of_pending {w : Word} {s t : State} (h : executeCommand w s = .next t)
    (later : List HostEvent) : executeCommand w { s with pending := later } = .next { t with pending := later } := by
  cases hd : decode w with
  | ok i =>
    rw [executeCommand_of_ok hd] at h ⊢
    exact exec_of_pending h later
  | error x =>
    cases (executeCommand_of_error hd s).symm.trans h
    exact executeCommand_of_error hd _

/-- The hardwired bits of a STATUS that is ever held are 0, so the port returns it whole (R21). -/
theorem State.statusRead_of_listed {s : State} (h : s.status ∈ statusValues) : s.statusRead = s.status := by
  rw [State.statusRead]
  obtain h0 | ⟨k, hk⟩ | ⟨e, he⟩ := statusValues_cases h
  · rw [h0]
    rfl
  · rw [hk]
    cases k <;> rfl
  · rw [he]
    cases e <;> rfl

theorem State.readReg_of_environment (s : State) (later : List HostEvent) (past : List ReadRecord) (r : Reg) :
    State.readReg { s with pending := later, reads := past } r = s.readReg r := by cases r <;> rfl

theorem step_read_of_environment (s : State) {h offset : Nat} (hin : insideInterface 32 offset = true)
    (rest : List HostEvent) (past : List ReadRecord) :
    step { s with pending := ⟨h, .read 32 offset⟩ :: rest, reads := past } =
      .next { s with pending := rest, reads := past ++ [⟨h, offset, s.readReg (regAt offset)⟩] } := by
  rw [step_read rfl hin, hostRead, State.readReg_of_environment, State.readReg_of_environment]

/-- A run of reads by one host records what each register holds and leaves the unit alone (R16). -/
theorem runSteps_of_reads (s : State) (h : Nat) (offsets : List Nat) (rest : List HostEvent) (past : List ReadRecord)
    (hin : ∀ offset ∈ offsets, insideInterface 32 offset = true) :
    runSteps offsets.length
        { s with pending := offsets.map (fun offset => ⟨h, .read 32 offset⟩) ++ rest, reads := past } =
      .next { s with
        pending := rest
        reads := past ++ offsets.map fun offset => ⟨h, offset, s.readReg (regAt offset)⟩ } := by
  induction offsets generalizing past with
  | nil => simp
  | cons offset offsets ih =>
    obtain ⟨hhead, htail⟩ := List.forall_mem_cons.1 hin
    have hrun := ih (past ++ [⟨h, offset, s.readReg (regAt offset)⟩]) htail
    rw [List.append_assoc] at hrun
    exact (runSteps_succ_of_step (step_read_of_environment s hhead _ past) offsets.length).trans hrun

/-- Settles O50: the command runs as it would with the reads not yet pending, and each read records one register of the
state it left. -/
theorem nextReadsSeeTheCommandsEffect : Obligations.NextReadsSeeTheCommandsEffect := by
  intro s t h w rest hp hexec
  have hcmd := (step_write hp rfl).trans (executeCommand_of_pending hexec _)
  obtain rfl : t.pending = rest := executeCommand_pending hexec
  have hreads : t.reads = s.reads := executeCommand_reads (s := { s with pending := t.pending }) hexec
  have hstatus : t.readReg .status = t.status := State.statusRead_of_listed (executeCommand_status_listed hexec)
  have hrun := runSteps_of_reads t h [0x0C, 0x08, 0x10] t.pending t.reads (by decide)
  simp only [List.map_cons, List.map_nil, regAt, hstatus] at hrun
  rw [runSteps_succ_of_step hcmd, ← hreads]
  exact hrun

end Sys2Proof.Machine
end

section
/-! SUPPORT. The obligation about the words of the spec's vectors (95_test_vectors.md). -/

namespace Sys2Proof.Machine

/-- A word that the encoder makes of a well-formed command decodes to that command. -/
theorem decode_of_encode_eq {w : Word} {i : Instr} (hwf : i.wf = true) (henc : encode i = w) : decode w = .ok i :=
  henc ▸ decodeOfEncodeIsIdentity i hwf

/-- Settles O3: each command is well-formed and the encoder spells it by the vector's word, which the round trip of O1
reads back. -/
theorem vectorWordsDecodeRight : Obligations.VectorWordsDecodeRight := by
  refine ⟨?_, ?_, ?_, ?_, ?_, ?_, ?_, ?_, ?_, ?_, ?_⟩
  all_goals exact decode_of_encode_eq (by decide) (by decide)

end Sys2Proof.Machine
end
